-- ==== Sys2Proof/Word.lean ====
section
/-! DEFINITION. The two value types of the core: the 32-bit Word and the 8-bit byte lane (00_scope.md R7). -/

namespace Sys2Proof

/-- "An unsigned 32-bit integer; the universal value type for all arithmetic" (R7, R14). -/
abbrev Word := BitVec 32

/-- One element of the KEY and IN buffers: a byte is 8 bits (R7, R10). -/
abbrev Byte := BitVec 8

end Sys2Proof
end

