-- ==== Sys2Proof/Config.lean ====
section
/-! DEFINITION. What an implementation fixes: the parameters P1 to P5 and P7 of 00_scope.md R8, as plain data that the
state carries (log 2); and the free values, constants with no body (log 3, log 4, log 8). Their default values are in
Machine/Defaults.lean, their legal values in WellFormed.lean. P6 (LATENCY) is not a value of the model (log 12). -/

namespace Sys2Proof

/-- P1 MUL_ROT_DIR: the direction in which the multiplier rotates its shifted copy (R8, 40_primitives.md R67). -/
inductive RotDir where
  | left
  | right
  deriving DecidableEq, Repr

/-- P3 PAD_POLICY: what STREAM does with a final group of 1 to 3 bytes (R8, 43_pipeline.md R95). -/
inductive PadPolicy where
  | reject
  | zeroPad
  | truncate
  deriving DecidableEq, Repr

/-- P2 OPERAND_SCHEDULE (42_round_transform.md R84). Block words X1..X4 are indexed 0..3 and steps 1..8 are indexed 0..7:
`first` is the index of N1 of step 1, and `sel[s-1]` gives the indices of N2, N3 and N4 of step s. -/
structure OperandSchedule where
  first : Fin 4
  sel : Vector (Fin 4 × Fin 4 × Fin 4) 8
  deriving DecidableEq, Repr

/-- The parameters "the model takes as arguments" (R8). -/
structure Params where
  /-- P1 MUL_ROT_DIR. -/
  mulRotDir : RotDir
  /-- P2 OPERAND_SCHEDULE. -/
  schedule : OperandSchedule
  /-- P3 PAD_POLICY. -/
  padPolicy : PadPolicy
  /-- P4 KEY_BUF_BYTES. -/
  keyBufBytes : Nat
  /-- P5 IN_BUF_BYTES. -/
  inBufBytes : Nat
  /-- P7 BASE: the host address at which the 4 KiB window stands. -/
  base : Nat
  deriving DecidableEq, Repr

/-- OUT_BUF_WORDS = IN_BUF_BYTES / 4 (R9). -/
def Params.outBufWords (p : Params) : Nat := p.inBufBytes / 4

/-- The value a KEY, IN or OUT byte not written since reset holds (70_reset_and_hazards.md R116, R119): free, one draw for
each reset (the first argument) and each window offset (the second). No body: nothing can be proved of its value (log 3). -/
opaque Config.freeByte : Nat → Nat → Byte

/-- The value a read of an output location returns while STATUS.BUSY = 1 (20_memory.md R45): free, one draw for each read,
numbered by the argument. No body: nothing can be proved of its value (log 4). -/
opaque Config.freeWord : Nat → Word

/-- The value a host-local name holds before it is set (30_encoding.md R62 gives none): free, one for each name. No body:
nothing can be proved of its value (log 8). -/
opaque Config.freeName : Nat → Word

end Sys2Proof
end

