-- ==== Sys2Proof/Syntax.lean ====
section
/-! DEFINITION. The terms of the model: the ten commands (30_encoding.md R57), the assembler's command lines (R61), the
register map's names (10_state.md R17), the bus accesses (20_memory.md R37), the turns of the three agents (10_state.md R15)
and the host programs (30_encoding.md R62). -/

namespace Sys2Proof

/-- The commands of the core, one constructor for each row of the opcode table (R57). Every operand is implicit (R56) but
the rotate amount AMT, a 5-bit unsigned field (R54, R55). -/
inductive Instr where
  | add
  | mul
  | xor
  | rotr (amt : BitVec 5)
  | rotl (amt : BitVec 5)
  | keysched
  | mixf
  | mixl
  | encblk
  | stream
  deriving DecidableEq, Repr

/-! ### The assembler's command line (R61) -/

/-- The mnemonics of R57, as an assembler reads them. -/
inductive Mnemonic where
  | ADD | MUL | XOR | ROTR | ROTL | KEYSCHED | MIXF | MIXL | ENCBLK | STREAM
  deriving DecidableEq, Repr

/-- A command as written: its mnemonic and, if present, its operand `#n` (R61). -/
structure Source where
  mnemonic : Mnemonic
  operand : Option Int
  deriving DecidableEq, Repr

/-! ### The register map (10_state.md R17) -/

/-- The core's registers. -/
inductive Reg where
  | cmd
  | status
  | keyLen
  | inLen
  | outCount
  | op (i : Fin 8)
  | result
  | subkey (i : Fin 4)
  | trace (i : Fin 8)
  deriving DecidableEq, Repr

/-- What a mapped offset of the window names: a register or a word of a buffer (R17, R36). -/
inductive Loc where
  | reg (r : Reg)
  | keyWord (w : Nat)
  | inWord (w : Nat)
  | outWord (w : Nat)
  deriving DecidableEq, Repr

/-- The core's three buffers (00_scope.md R12). -/
inductive Buf where
  | key
  | inp
  | out
  deriving DecidableEq, Repr

/-! ### Bus accesses and turns -/

/-- The two accesses of the bus, each of a whole 32-bit word (20_memory.md R37). -/
inductive BusOp where
  | read
  | write (v : Word)
  deriving DecidableEq, Repr

/-- An access by a bus master, at an address of the host's address space (20_memory.md R36). -/
structure Access where
  address : Nat
  op : BusOp
  deriving DecidableEq, Repr

/-- The response every access gets (20_memory.md R37). -/
inductive BusResp where
  | okData (d : Word)
  | ok
  | err
  deriving DecidableEq, Repr

/-- Who takes the next step (10_state.md R15): the core, the host agent with the next statement of its program, a bus
master with one given access (60_exceptions.md R112), or reset (70_reset_and_hazards.md R115). -/
inductive Turn where
  | core
  | host
  | bus (a : Access)
  | reset
  deriving DecidableEq, Repr

/-! ### Host programs (30_encoding.md R62). Host-local names and labels are numbers (log 8). -/

/-- An expression over literals and host-local names. -/
inductive HostExpr where
  | lit (v : Word)
  | name (n : Nat)
  | add (a b : HostExpr)
  | sub (a b : HostExpr)
  | and (a b : HostExpr)
  | or (a b : HostExpr)
  | xor (a b : HostExpr)
  | shl (a b : HostExpr)
  | shr (a b : HostExpr)
  /-- `s[hi:lo]`; `s[i]` is `bits s i i`. DESIGN CHOICE: the indices are fixed numbers. R62 lets the index of a buffer word be
  an expression and is silent on these (log 18). -/
  | bits (a : HostExpr) (hi lo : Nat)
  deriving DecidableEq, Repr

/-- `<loc>`: a register name, a buffer word, or a raw offset. -/
inductive HostLoc where
  | reg (r : Reg)
  | keyBuf (w : HostExpr)
  | inBuf (w : HostExpr)
  | outBuf (w : HostExpr)
  | raw (offset : HostExpr)
  deriving DecidableEq, Repr

/-- The comparisons of `if`, all unsigned. -/
inductive HostCmp where
  | eq
  | ne
  | lt
  | ge
  deriving DecidableEq, Repr

/-- The statements of a host program. -/
inductive HostStmt where
  /-- `WR <loc>, <value>`: one `BusWrite`. -/
  | wr (l : HostLoc) (v : HostExpr)
  /-- `RD <loc> -> name`, or `RD <loc>`: one `BusRead`. -/
  | rd (l : HostLoc) (name : Option Nat)
  /-- `<name> <- <expr>`. -/
  | set (name : Nat) (e : HostExpr)
  /-- `<label>:`. -/
  | label (l : Nat)
  /-- `goto <label>`. -/
  | goto (l : Nat)
  /-- `if <a> <op> <b> goto <label>`. -/
  | ifGoto (a : HostExpr) (c : HostCmp) (b : HostExpr) (l : Nat)
  deriving DecidableEq, Repr

end Sys2Proof
end

