-- ==== Sys2Proof/WellFormed.lean ====
section
/-! DEFINITION. The checks on the model's terms. Every term of Instr is well formed by its type: the amount field holds
0..31 and nothing else (30_encoding.md R55). The checks stand where ill-formed terms can be written: the assembler's command
line (R61), the parameters (00_scope.md R8) and host programs (R62). -/

namespace Sys2Proof

/-- Whether a mnemonic takes an operand: only ROTR and ROTL do (R61). -/
def Mnemonic.takesAmount : Mnemonic → Bool
  | .ROTR => true
  | .ROTL => true
  | .ADD => false
  | .MUL => false
  | .XOR => false
  | .KEYSCHED => false
  | .MIXF => false
  | .MIXL => false
  | .ENCBLK => false
  | .STREAM => false

/-- "An assembler refuses `#n` outside 0..31, and refuses an operand on any other mnemonic"; ROTR and ROTL "take one
operand" (R61). -/
def Source.wf (c : Source) : Bool :=
  match c.operand with
  | some n => c.mnemonic.takesAmount && decide (0 ≤ n) && decide (n ≤ 31)
  | none => !c.mnemonic.takesAmount

/-- The legal values of the parameters (00_scope.md R8): KEY_BUF_BYTES a multiple of 4 in 4..256, IN_BUF_BYTES a multiple of
4 in 4..1024, BASE 4096-byte aligned. P1, P2 and P3 are legal by their types. -/
abbrev Params.Legal (p : Params) : Prop :=
  p.keyBufBytes % 4 = 0 ∧ 4 ≤ p.keyBufBytes ∧ p.keyBufBytes ≤ 256 ∧
  p.inBufBytes % 4 = 0 ∧ 4 ≤ p.inBufBytes ∧ p.inBufBytes ≤ 1024 ∧
  p.base % 4096 = 0

/-- A bit selection `s[hi:lo]` stays within the 32 bits and is not empty (R62, 00_scope.md R10). -/
def HostExpr.wf : HostExpr → Bool
  | .lit _ => true
  | .name _ => true
  | .add a b => a.wf && b.wf
  | .sub a b => a.wf && b.wf
  | .and a b => a.wf && b.wf
  | .or a b => a.wf && b.wf
  | .xor a b => a.wf && b.wf
  | .shl a b => a.wf && b.wf
  | .shr a b => a.wf && b.wf
  | .bits a hi lo => a.wf && decide (lo ≤ hi) && decide (hi ≤ 31)

def HostLoc.wf : HostLoc → Bool
  | .reg _ => true
  | .keyBuf w => w.wf
  | .inBuf w => w.wf
  | .outBuf w => w.wf
  | .raw e => e.wf

/-- The labels a program marks, in order. -/
def hostLabels : List HostStmt → List Nat
  | [] => []
  | .label l :: rest => l :: hostLabels rest
  | .wr _ _ :: rest => hostLabels rest
  | .rd _ _ :: rest => hostLabels rest
  | .set _ _ :: rest => hostLabels rest
  | .goto _ :: rest => hostLabels rest
  | .ifGoto _ _ _ _ :: rest => hostLabels rest

/-- One statement is well formed among the labels of its program. -/
def HostStmt.wf (labels : List Nat) : HostStmt → Bool
  | .wr l v => l.wf && v.wf
  | .rd l _ => l.wf
  | .set _ e => e.wf
  | .label _ => true
  | .goto l => labels.contains l
  | .ifGoto a _ b l => a.wf && b.wf && labels.contains l

/-- A host program is well formed: "`<label>:` marks the next statement", so no label is marked twice, and every jump names
a label of the program (R62). -/
def hostProgramWf (p : List HostStmt) : Bool :=
  decide (hostLabels p).Nodup && p.all (HostStmt.wf (hostLabels p))

end Sys2Proof
end

