-- ==== Sys2Proof/Decode.lean ====
section
/-! DEFINITION. The decoder of command words, total on all 2^32 words and rejecting by name (30_encoding.md R57 to R59); then
the encoder (R61) and the assembler that stands on it. -/

namespace Sys2Proof

/-! ### Fields of format C (R54) -/

/-- OPC = CMD[7:0]. -/
def opcField (w : Word) : BitVec 8 := w.extractLsb' 0 8

/-- AMT = CMD[12:8]. -/
def amtField (w : Word) : BitVec 5 := w.extractLsb' 8 5

/-- RSV = CMD[31:13]. -/
def rsvField (w : Word) : BitVec 19 := w.extractLsb' 13 19

/-! ### Decoding -/

/-- One row of the opcode table: "a word w selects a row when `(w & mask) == match`" (R57). -/
structure OpcodeRow where
  bits : Word
  mask : Word
  make : BitVec 5 → Instr

/-- The opcode table (R57). "ROTR and ROTL take AMT from w[12:8]"; every other row's mask covers AMT (R58). -/
def opcodeRows : List OpcodeRow :=
  [ ⟨0x00000001, 0xFFFFFFFF, fun _ => .add⟩,
    ⟨0x00000002, 0xFFFFFFFF, fun _ => .mul⟩,
    ⟨0x00000003, 0xFFFFFFFF, fun _ => .xor⟩,
    ⟨0x00000004, 0xFFFFE0FF, fun n => .rotr n⟩,
    ⟨0x00000005, 0xFFFFE0FF, fun n => .rotl n⟩,
    ⟨0x00000010, 0xFFFFFFFF, fun _ => .keysched⟩,
    ⟨0x00000020, 0xFFFFFFFF, fun _ => .mixf⟩,
    ⟨0x00000021, 0xFFFFFFFF, fun _ => .mixl⟩,
    ⟨0x00000022, 0xFFFFFFFF, fun _ => .encblk⟩,
    ⟨0x00000030, 0xFFFFFFFF, fun _ => .stream⟩ ]

/-- The kinds of illegal word (R59). Which name is reported when several hold is the model's choice, seen by no one: all are
ILLEGAL (log 14). -/
inductive Illegal where
  /-- (b) RSV ≠ 0, whatever OPC is. -/
  | reservedBits
  /-- (a) OPC is not one of the ten opcodes. -/
  | unassignedOpcode
  /-- (c) AMT ≠ 0 with an OPC other than 0x04 or 0x05. -/
  | amountOnNonRotate
  deriving DecidableEq, Repr

/-- The kind of a word that matches no row. -/
def illegalKind (w : Word) : Illegal :=
  if rsvField w ≠ 0 then .reservedBits
  else if opcodeRows.any (fun r => r.bits &&& 0xFF == w &&& 0xFF) then .amountOnNonRotate
  else .unassignedOpcode

/-- `decode(w)`: the first row that the word selects, or ILLEGAL (R58). -/
def decode (w : Word) : Except Illegal Instr :=
  match opcodeRows.find? (fun r => w &&& r.mask == r.bits) with
  | some r => .ok (r.make (amtField w))
  | none => .error (illegalKind w)

/-! ### Encoding -/

/-- `enc(c)`: the command's word (R61). -/
def encode : Instr → Word
  | .add => 0x00000001
  | .mul => 0x00000002
  | .xor => 0x00000003
  | .rotr n => 0x00000004 ||| (n.setWidth 32 <<< 8)
  | .rotl n => 0x00000005 ||| (n.setWidth 32 <<< 8)
  | .keysched => 0x00000010
  | .mixf => 0x00000020
  | .mixl => 0x00000021
  | .encblk => 0x00000022
  | .stream => 0x00000030

/-! ### The assembler (R61) -/

/-- The command a mnemonic names, with its amount where it takes one. -/
def Mnemonic.instr (m : Mnemonic) (n : BitVec 5) : Instr :=
  match m with
  | .ADD => .add
  | .MUL => .mul
  | .XOR => .xor
  | .ROTR => .rotr n
  | .ROTL => .rotl n
  | .KEYSCHED => .keysched
  | .MIXF => .mixf
  | .MIXL => .mixl
  | .ENCBLK => .encblk
  | .STREAM => .stream

/-- An assembler's reading of a command line: refused (none) when it is not well formed (R61). -/
def assemble (c : Source) : Option Instr :=
  if c.wf then some (c.mnemonic.instr (BitVec.ofInt 5 (c.operand.getD 0))) else none

/-! ### The host's question -/

/-- The word whose low `nbits` bits are w and whose other bits are 0: a command is one 32-bit word (R53). -/
def tableWord (nbits w : Nat) : Word := BitVec.ofNat 32 (w % 2 ^ nbits)

/-- What the decoder reads from a row's word. -/
def decodeTableWord (nbits w : Nat) : Option Instr := (decode (tableWord nbits w)).toOption

end Sys2Proof
end

