-- ==== Sys2Proof/Machine/Defaults.lean ====
section
/-! DEFINITION. The parameters' defaults (00_scope.md R8; 42_round_transform.md R84). They are the spec's choices; BASE, which
the spec leaves OPEN without a default, is the model's (log 2). -/

namespace Sys2Proof.Machine

/-- The index of X_((k mod 4) + 1), from 0. -/
def cyclicIndex (k : Nat) : Fin 4 := ⟨k % 4, Nat.mod_lt k (by decide)⟩

/-- `sel(s)` of the cyclic schedule for step s = 1..8: with j = ((s-1) mod 4) + 1, the words after X_j in cyclic order,
((j mod 4) + 1, ((j+1) mod 4) + 1, ((j+2) mod 4) + 1), here counted from 0 (R84). -/
def cyclicSel (s : Nat) : Fin 4 × Fin 4 × Fin 4 :=
  let j := (s - 1) % 4 + 1
  (cyclicIndex j, cyclicIndex (j + 1), cyclicIndex (j + 2))

/-- The default OPERAND_SCHEDULE: first = X1 and the cyclic selection (R84; D9, D10). -/
def cyclicSchedule : OperandSchedule where
  first := 0
  sel := #v[cyclicSel 1, cyclicSel 2, cyclicSel 3, cyclicSel 4, cyclicSel 5, cyclicSel 6, cyclicSel 7, cyclicSel 8]

/-- Every parameter at its default (R8). BASE is OPEN: DESIGN CHOICE 0, and no statement rests on it (log 2). -/
def defaultParams : Params where
  mulRotDir := .left
  schedule := cyclicSchedule
  padPolicy := .reject
  keyBufBytes := 32
  inBufBytes := 256
  base := 0

end Sys2Proof.Machine
end

