-- ==== Sys2Proof/Machine/State.lean ====
section
/-! DEFINITION. The machine's state as plain data, the reasons a step can stop, and the state after reset (10_state.md R35). -/

namespace Sys2Proof.Machine

/-- The bytes of KEY, IN and OUT written since reset, as (window offset, byte), offsets strictly rising. A byte not listed
has not been written since reset; what it reads as is a free value (log 3). -/
abbrev Memory := List Host.Cell

/-- What State holds: the registers and buffers of 10_state.md, the parameters of 00_scope.md R8, and the model's own fields
(INVENTORY.md, State). -/
structure State where
  /-- The parameters; no step changes them (log 2). -/
  params : Params
  /-- CMD (R18). -/
  cmd : Word
  /-- STATUS.BUSY (R19). -/
  busy : Bool
  /-- STATUS.DONE (R20). -/
  doneBit : Bool
  /-- STATUS.ERR (R21). -/
  err : BitVec 4
  /-- KEY_LEN (R23). -/
  keyLen : Word
  /-- IN_LEN (R24). -/
  inLen : Word
  /-- OUT_COUNT (R25). -/
  outCount : Word
  /-- OP[0..7] (R26). -/
  op : Vector Word 8
  /-- RESULT (R30). -/
  result : Word
  /-- SUBKEY[0..3] (R31). -/
  subkey : Vector Word 4
  /-- TRACE[0..7] (R32). -/
  trace : Vector Word 8
  /-- The KEY, IN and OUT buffers (R27 to R29). -/
  mem : Memory
  /-- The model's own: how many resets there have been, so that each draws its buffer bytes anew (log 3). -/
  epoch : Nat
  /-- The model's own: how many free words output reads while busy have drawn (log 4). -/
  draws : Nat
  /-- The model's own: who moves next, in order (log 1). -/
  turns : List Turn
  /-- The model's own: the host agent's program (log 8). -/
  prog : List HostStmt
  /-- The model's own: the index of the host's next statement. -/
  hostPc : Nat
  /-- The model's own: the host-local names that have a value, in rising order. -/
  names : List (Nat × Word)
  /-- The model's own: the bus responses given so far, the newest first (log 9). -/
  responses : List BusResp
  deriving DecidableEq, Repr

/-- Why a step stops. All are of the host agent; no command of the core ends in a fault. Each is safe: the model stops where
the platform would go on. -/
inductive Fault where
  /-- A bus master's access outside the core's 4096-byte window, which the core does not decode (20_memory.md R36). Raised by
  a host statement or a bus turn. Safe (log 7). -/
  | outsideWindow
  /-- A host statement jumps to a label its program does not mark (30_encoding.md R62). Safe (log 8). -/
  | unknownLabel
  deriving DecidableEq, Repr

/-- Why an instruction has no meaning. -/
inductive Refusal where
  /-- The instruction is not modelled. Raised by no arm of exec: every command has its meaning. Safe. -/
  | notModelled (mnemonic : String)
  deriving DecidableEq, Repr

/-- The outcome of a step of this machine. -/
abbrev Result := Host.Outcome State Fault Refusal

/-- The machine after reset (10_state.md R35, 70_reset_and_hazards.md R115 to R117): every register 0, no pending command, no
buffer byte written. The parameters have their defaults, and the model's own fields are empty (log 2, log 5). -/
def State.reset : State where
  params := defaultParams
  cmd := 0
  busy := false
  doneBit := false
  err := 0
  keyLen := 0
  inLen := 0
  outCount := 0
  op := #v[0, 0, 0, 0, 0, 0, 0, 0]
  result := 0
  subkey := #v[0, 0, 0, 0]
  trace := #v[0, 0, 0, 0, 0, 0, 0, 0]
  mem := []
  epoch := 0
  draws := 0
  turns := []
  prog := []
  hostPc := 0
  names := []
  responses := []

end Sys2Proof.Machine
end

