-- ==== Sys2Proof/Machine/Flags.lean ====
section
/-! DEFINITION. The core's only status, the STATUS register, and the error codes it reports. There are no condition codes,
carry or overflow flags (10_state.md R34). -/

namespace Sys2Proof.Machine

/-- The error conditions of 60_exceptions.md R101. -/
inductive CmdError where
  | illegalCommand
  | badLength
  | invalidKeyLength
  | malformedBlock
  deriving DecidableEq, Repr

/-- The code of an error in STATUS.ERR (R101). -/
def errorCode : CmdError → BitVec 4
  | .illegalCommand => 1
  | .badLength => 2
  | .invalidKeyLength => 3
  | .malformedBlock => 4

/-- `code(e)`: "0 if none" (R105). -/
def statusCode : Option CmdError → BitVec 4
  | none => 0
  | some e => errorCode e

/-- The STATUS register as a Word: BUSY in bit 0, DONE in bit 1, ERR in bits 7:4, and every other bit hardwired to 0
(10_state.md R19 to R22). -/
def statusWord (s : State) : Word :=
  (0#24 ++ s.err ++ 0#2 ++ BitVec.ofBool s.doneBit ++ BitVec.ofBool s.busy).setWidth 32

end Sys2Proof.Machine
end

