-- ==== Sys2Proof/Machine/Units.lean ====
section
/-! DEFINITION. The core's units as functions on Words (40_primitives.md section 1), and the bit-field and widening helpers
of 00_scope.md R10. -/

namespace Sys2Proof.Machine

/-- `zext_32` of a byte: "high bits zero" (00_scope.md R10; 41_key_schedule.md R75, 43_pipeline.md R92). -/
def zext32 (b : Byte) : Word := b.setWidth 32

/-- `v[8i+7:8i]`: byte i of a Word, byte 0 the least significant (20_memory.md R38). -/
def byteOf (v : Word) (i : Nat) : Byte := v.extractLsb' (8 * i) 8

/-- `v[hi:lo]`, read as an unsigned number (00_scope.md R10). -/
def bitField (v : Word) (hi lo : Nat) : Word := (v >>> lo) &&& BitVec.ofNat 32 (2 ^ (hi - lo + 1) - 1)

/-- `popcount(v)`: the number of 1 bits of v (00_scope.md R10). -/
def popcount (v : Word) : Nat := (List.range 32).countP (fun i => v.getLsbD i)

/-- The modular adder: `(a + b) mod 2^32`, the carry out discarded (R65). -/
def add32 (a b : Word) : Word := a + b

/-- The XOR unit (R69). -/
def xor32 (a b : Word) : Word := a ^^^ b

/-- The barrel shifter's right rotation, the source's `circular_shift` (R66). The amount's type holds exactly 0..31. -/
def rotr32 (v : Word) (n : BitVec 5) : Word :=
  if n = 0 then v else (v >>> n.toNat) ||| (v <<< (32 - n.toNat))

/-- The barrel shifter's left rotation, which the multiplier uses (R66). -/
def rotl32 (v : Word) (n : BitVec 5) : Word :=
  if n = 0 then v else (v <<< n.toNat) ||| (v >>> (32 - n.toNat))

/-- The multiplier's rotation of its shifted copy by one bit, in the direction MUL_ROT_DIR (R67; C1). -/
def rotOne (dir : RotDir) (s : Word) : Word :=
  match dir with
  | .left => rotl32 s 1
  | .right => rotr32 s 1

/-- `steps` turns of the multiplier's loop from bit i on, with accumulator acc and shifted copy s (R67). -/
def mulLoop (dir : RotDir) (b : Word) : (steps i : Nat) → (acc s : Word) → Word
  | 0, _, acc, _ => acc
  | steps + 1, i, acc, s => mulLoop dir b steps (i + 1) (if b.getLsbD i then add32 acc s else acc) (rotOne dir s)

/-- The modular multiplier: rotate-and-add over the 32 bits of b, least significant first (R67). It is not the ordinary
product (90_conflicts.md C3). -/
def mul32 (dir : RotDir) (a b : Word) : Word := mulLoop dir b 32 0 0 a

end Sys2Proof.Machine
end

