-- ==== Sys2Proof/Machine/Ops.lean ====
section
/-! DEFINITION. The named operations over State: one update for each register, the byte buffers (00_scope.md R12), issuing and
completing a command, raising an error, and reset. -/

namespace Sys2Proof.Machine

/-! ### Lists of numbered entries in rising order -/

/-- The value an entry list holds for k, if it lists k. -/
def assocGet {α : Type} : List (Nat × α) → Nat → Option α
  | [], _ => none
  | (a, v) :: rest, k => if a = k then some v else assocGet rest k

/-- Set k to v, keeping the entries in strictly rising order. -/
def assocSet {α : Type} : List (Nat × α) → Nat → α → List (Nat × α)
  | [], k, v => [(k, v)]
  | (a, w) :: rest, k, v =>
    if k < a then (k, v) :: (a, w) :: rest
    else if k = a then (k, v) :: rest
    else (a, w) :: assocSet rest k v

/-- The entries' numbers strictly rise. -/
def assocWf {α : Type} : List (Nat × α) → Bool
  | [] => true
  | [_] => true
  | (a, _) :: (b, w) :: rest => decide (a < b) && assocWf ((b, w) :: rest)

/-- The canonical form of memory: offsets strictly rise. An unlisted byte has no definite value (it has not been written
since reset), so no entry can equal what an unlisted one reads as (log 3). -/
def Memory.wf (m : Memory) : Bool := assocWf m

/-! ### Updates of one register or field -/

def State.withCmd (s : State) (v : Word) : State := { s with cmd := v }
def State.withKeyLen (s : State) (v : Word) : State := { s with keyLen := v }
def State.withInLen (s : State) (v : Word) : State := { s with inLen := v }
def State.withOutCount (s : State) (v : Word) : State := { s with outCount := v }
def State.withOp (s : State) (i : Fin 8) (v : Word) : State := { s with op := s.op.set i v }
def State.withResult (s : State) (v : Word) : State := { s with result := v }
def State.withSubkey (s : State) (z : Vector Word 4) : State := { s with subkey := z }
def State.withTrace (s : State) (t : Vector Word 8) : State := { s with trace := t }
def State.withMem (s : State) (m : Memory) : State := { s with mem := m }
def State.withStatus (s : State) (busy doneBit : Bool) (err : BitVec 4) : State :=
  { s with busy := busy, doneBit := doneBit, err := err }

/-- One free word has been drawn (log 4). -/
def State.drawn (s : State) : State := { s with draws := s.draws + 1 }

/-- The list of turns becomes t (log 1). -/
def State.withTurns (s : State) (t : List Turn) : State := { s with turns := t }

/-- The host agent goes on to its statement pc. -/
def State.withHostPc (s : State) (pc : Nat) : State := { s with hostPc := pc }

/-- The host-local name n has the value v (30_encoding.md R62). -/
def State.withName (s : State) (n : Nat) (v : Word) : State := { s with names := assocSet s.names n v }

/-- A bus access has got its response (20_memory.md R37; log 9). -/
def State.responded (s : State) (r : BusResp) : State := { s with responses := r :: s.responses }

/-! ### The buffers (00_scope.md R12) -/

/-- The window offset at which a buffer stands (20_memory.md R36). -/
def bufOffset : Buf → Nat
  | .key => 0x100
  | .inp => 0x400
  | .out => 0x800

/-- The byte at a window offset of a buffer: as last written since reset, else the free value it holds since then
(70_reset_and_hazards.md R116, R119; log 3). -/
def State.readByte (s : State) (offset : Nat) : Byte :=
  match assocGet s.mem offset with
  | some b => b
  | none => Config.freeByte s.epoch offset

/-- Write the byte at a window offset of a buffer. -/
def State.writeByte (s : State) (offset : Nat) (b : Byte) : State := s.withMem (assocSet s.mem offset b)

/-- The little-endian value of the n bytes from a window offset on; n ≤ 4, and the value is zero-extended to a Word. -/
def State.readBytes (s : State) (offset : Nat) : Nat → Word
  | 0 => 0
  | n + 1 => zext32 (s.readByte offset) ||| (s.readBytes (offset + 1) n <<< 8)

/-- Write the low n bytes of v, the least significant at the lowest offset. -/
def State.writeBytes (s : State) (offset : Nat) : Nat → Word → State
  | 0, _ => s
  | n + 1, v => (s.writeByte offset (byteOf v 0)).writeBytes (offset + 1) n (v >>> 8)

/-- `MemRead(sp, i, n)` (R12). -/
def memRead (s : State) (sp : Buf) (i n : Nat) : Word := s.readBytes (bufOffset sp + i) n

/-- `MemWrite(sp, i, n, v)` (R12). -/
def memWrite (s : State) (sp : Buf) (i n : Nat) (v : Word) : State := s.writeBytes (bufOffset sp + i) n v

/-! ### Issue, completion, errors, reset -/

/-- An accepted CMD write: it stores the word and issues the command, clearing DONE and ERR (30_encoding.md R64). It is also
the only thing, but reset, that clears STATUS.ERR: there is no return from an error (60_exceptions.md R108). -/
def State.issue (s : State) (w : Word) : State := (s.withCmd w).withStatus true false 0

/-- The end of the completion step: ERR holds the code of the error or 0, BUSY is 0 and DONE is 1 (60_exceptions.md R105). -/
def State.complete (s : State) (e : Option CmdError) : State := s.withStatus false true (statusCode e)

/-- The end of a command without an error. -/
def finish (s : State) : Result := .next (s.complete none)

/-- `raise E(info)`: the command ends at once and writes nothing but STATUS; the info is recorded nowhere (00_scope.md R13;
60_exceptions.md R100, R101, R104). s is the state the command began with. -/
def raise (e : CmdError) (s : State) : Result := .next (s.complete (some e))

/-- Reset, one atomic event (70_reset_and_hazards.md R115, R116; 10_state.md R35): every register takes its reset value, a
pending command is abandoned, and the buffers hold free values drawn anew. It is the core's reset: the parameters, the host
agent, the turns and the responses stay (log 11). -/
def State.afterReset (s : State) : State :=
  { s with
    cmd := 0, busy := false, doneBit := false, err := 0, keyLen := 0, inLen := 0, outCount := 0,
    op := Vector.replicate 8 0, result := 0, subkey := Vector.replicate 4 0, trace := Vector.replicate 8 0,
    mem := [], epoch := s.epoch + 1 }

end Sys2Proof.Machine
end

