-- ==== Sys2Proof/Machine/Operands.lean ====
section
/-! DEFINITION. The operand forms of the commands (30_encoding.md R56): every operand is implicit, from the OP registers, the
length registers and the buffers; AMT is a field of the command word and comes with the instruction (R55). -/

namespace Sys2Proof.Machine

/-- A Block (X1, X2, X3, X4) or a SubkeySet (Z1, Z2, Z3, Z4), at indices 0..3 (00_scope.md R14). -/
abbrev Words4 := Vector Word 4

/-- ENCBLK's block: X1..X4 = OP[0..3] (42_round_transform.md R86). -/
def opBlock (s : State) : Words4 := #v[s.op[0], s.op[1], s.op[2], s.op[3]]

/-- ENCBLK's subkeys: Z1..Z4 = OP[4..7] (R86). -/
def opSubkeys (s : State) : Words4 := #v[s.op[4], s.op[5], s.op[6], s.op[7]]

/-- `derive_subkeys()`: the first four KEY bytes, each zero-extended (41_key_schedule.md R75). -/
def deriveSubkeys (s : State) : Words4 :=
  #v[memRead s .key 0 1, memRead s .key 1 1, memRead s .key 2 1, memRead s .key 3 1]

/-- `key_check()` (41_key_schedule.md R76). -/
def keyCheck (s : State) : Option CmdError :=
  if s.keyLen.toNat > s.params.keyBufBytes then some .badLength
  else if s.keyLen.toNat < 4 then some .invalidKeyLength
  else none

/-- Input byte b of STREAM, zero-extended: IN[b] below IN_LEN, and 0 at or past it, which is reached only in the last block
under ZERO_PAD (43_pipeline.md R92). -/
def inputByte (s : State) (b : Nat) : Word :=
  if b < s.inLen.toNat then memRead s .inp b 1 else 0

/-- Block j of STREAM: X1 is the lowest-indexed byte of the window (R92). -/
def inputBlock (s : State) (j : Nat) : Words4 :=
  #v[inputByte s (4 * j), inputByte s (4 * j + 1), inputByte s (4 * j + 2), inputByte s (4 * j + 3)]

/-- `blocks(IN_LEN)`, the partial-block policy (43_pipeline.md R95). -/
def blockCount (pad : PadPolicy) (len : Nat) : Except CmdError Nat :=
  if len % 4 = 0 then .ok (len / 4)
  else match pad with
    | .reject => .error .malformedBlock
    | .zeroPad => .ok ((len + 3) / 4)
    | .truncate => .ok ((len - len % 4) / 4)

/-- STREAM's eager validation, in the order of R90, and the block count if it passes. -/
def streamPlan (s : State) : Except CmdError Nat :=
  if s.keyLen.toNat > s.params.keyBufBytes ∨ s.inLen.toNat > s.params.inBufBytes then .error .badLength
  else if s.keyLen.toNat < 4 then .error .invalidKeyLength
  else blockCount s.params.padPolicy s.inLen.toNat

end Sys2Proof.Machine
end

