-- ==== Sys2Proof/Machine/KeySchedule.lean ====
section
/-! DEFINITION. KEYSCHED, the subkey extractor (41_key_schedule.md section 2). -/

namespace Sys2Proof.Machine

/-- KEYSCHED: the key check, then SUBKEY[0..3] from KEY bytes 0..3 (R78). -/
def execKeysched (s : State) : Result :=
  match keyCheck s with
  | some e => raise e s
  | none => finish (s.withSubkey (deriveSubkeys s))

end Sys2Proof.Machine
end

