-- ==== Sys2Proof/Machine/RoundTransform.lean ====
section
/-! DEFINITION. The round engine (42_round_transform.md): the two mix variants, the eight-step block function, and the commands
MIXF, MIXL and ENCBLK that expose them. -/

namespace Sys2Proof.Machine

/-- `mix_forward`: multiply N1 by k, add N2, add N3, XOR with N4 (R80). -/
def mixForward (dir : RotDir) (n1 n2 n3 n4 k : Word) : Word :=
  xor32 (add32 (add32 (mul32 dir n1 k) n2) n3) n4

/-- `mix_final`: multiply N1 by k, XOR with N2, add N3, add N4 (R81). -/
def mixFinal (dir : RotDir) (n1 n2 n3 n4 k : Word) : Word :=
  add32 (add32 (xor32 (mul32 dir n1 k) n2) n3) n4

/-- Step i + 1 of the block function, i = 0..7: N1 is the previous result, N2 to N4 are the block words the schedule selects,
k is Z1..Z4 and then Z1..Z4 again; steps 1 to 4 are mix_forward, steps 5 to 8 mix_final (R84, R85). -/
def blockStep (p : Params) (x z : Words4) (i : Fin 8) (n1 : Word) : Word :=
  let sel := p.schedule.sel[i]
  let k := z[i.val % 4]'(Nat.mod_lt _ (by decide))
  if i.val < 4 then mixForward p.mulRotDir n1 x[sel.1] x[sel.2.1] x[sel.2.2] k
  else mixFinal p.mulRotDir n1 x[sel.1] x[sel.2.1] x[sel.2.2] k

/-- `encrypt_block(X, Z)`: the output Word r8 and the eight step results r1..r8 (R85). -/
def encryptBlock (p : Params) (x z : Words4) : Word × Vector Word 8 :=
  let r1 := blockStep p x z 0 x[p.schedule.first]
  let r2 := blockStep p x z 1 r1
  let r3 := blockStep p x z 2 r2
  let r4 := blockStep p x z 3 r3
  let r5 := blockStep p x z 4 r4
  let r6 := blockStep p x z 5 r5
  let r7 := blockStep p x z 6 r6
  let r8 := blockStep p x z 7 r7
  (r8, #v[r1, r2, r3, r4, r5, r6, r7, r8])

/-- MIXF, one mix_forward call: N1..N4 = OP[0..3], k = OP[4] (R82). -/
def execMixf (s : State) : Result :=
  finish (s.withResult (mixForward s.params.mulRotDir s.op[0] s.op[1] s.op[2] s.op[3] s.op[4]))

/-- MIXL, one mix_final call: N1..N4 = OP[0..3], k = OP[4] (R83). -/
def execMixl (s : State) : Result :=
  finish (s.withResult (mixFinal s.params.mulRotDir s.op[0] s.op[1] s.op[2] s.op[3] s.op[4]))

/-- ENCBLK: one block through the round engine, the eight step results to TRACE and the output to RESULT (R86). -/
def execEncblk (s : State) : Result :=
  let r := encryptBlock s.params (opBlock s) (opSubkeys s)
  finish ((s.withTrace r.2).withResult r.1)

end Sys2Proof.Machine
end

