-- ==== Sys2Proof/Machine/Pipeline.lean ====
section
/-! DEFINITION. STREAM, the block-stream pipeline controller (43_pipeline.md). -/

namespace Sys2Proof.Machine

/-- The loop's first n turns, block index j = 0..n-1: OUT word j is the output of block j under the SubkeySet z (R89, R93).
`start` is the state the command reads its operands from, which no turn changes (R46). -/
def streamBlocks (start : State) (z : Words4) : (n : Nat) → State → State
  | 0, s => s
  | n + 1, s =>
    let s' := streamBlocks start z n s
    memWrite s' .out (4 * n) 4 (encryptBlock start.params (inputBlock start n) z).1

/-- STREAM: eager validation; the SubkeySet derived once; one OUT word for each block; then SUBKEY and OUT_COUNT (R89 to
R94). -/
def execStream (s : State) : Result :=
  match streamPlan s with
  | .error e => raise e s
  | .ok n =>
    let z := deriveSubkeys s
    finish (((streamBlocks s z n s).withSubkey z).withOutCount (BitVec.ofNat 32 n))

end Sys2Proof.Machine
end

