-- ==== Sys2Proof/Machine/Primitives.lean ====
section
/-! DEFINITION. The commands of 40_primitives.md section 2. None raises an error (60_exceptions.md R102). -/

namespace Sys2Proof.Machine

/-- ADD: `RESULT <- add32(OP[0], OP[1])` (R70). -/
def execAdd (s : State) : Result := finish (s.withResult (add32 s.op[0] s.op[1]))

/-- MUL: `RESULT <- mul32(OP[0], OP[1])`; OP[0] is rotated, the bits of OP[1] are scanned (R71). -/
def execMul (s : State) : Result := finish (s.withResult (mul32 s.params.mulRotDir s.op[0] s.op[1]))

/-- XOR: `RESULT <- xor32(OP[0], OP[1])` (R72). -/
def execXor (s : State) : Result := finish (s.withResult (xor32 s.op[0] s.op[1]))

/-- ROTR: `RESULT <- rotr32(OP[0], AMT)` (R73). -/
def execRotr (amt : BitVec 5) (s : State) : Result := finish (s.withResult (rotr32 s.op[0] amt))

/-- ROTL: `RESULT <- rotl32(OP[0], AMT)` (R74). -/
def execRotl (amt : BitVec 5) (s : State) : Result := finish (s.withResult (rotl32 s.op[0] amt))

end Sys2Proof.Machine
end

