-- ==== Sys2Proof/Machine/Dispatch.lean ====
section
/-! DEFINITION. `perform(c)` and the completion of the command c (60_exceptions.md R105): one arm for each command. -/

namespace Sys2Proof.Machine

def exec (i : Instr) (s : State) : Host.Outcome State Fault Refusal :=
  match i with
  | .add => Sys2Proof.Machine.execAdd s
  | .mul => Sys2Proof.Machine.execMul s
  | .xor => Sys2Proof.Machine.execXor s
  | .rotr amt => Sys2Proof.Machine.execRotr amt s
  | .rotl amt => Sys2Proof.Machine.execRotl amt s
  | .keysched => Sys2Proof.Machine.execKeysched s
  | .mixf => Sys2Proof.Machine.execMixf s
  | .mixl => Sys2Proof.Machine.execMixl s
  | .encblk => Sys2Proof.Machine.execEncblk s
  | .stream => Sys2Proof.Machine.execStream s

end Sys2Proof.Machine
end

