-- ==== Sys2Proof/Machine/Bus.lean ====
section
/-! DEFINITION. The core's window on the host bus (20_memory.md): its layout, reads, writes and bus errors. -/

namespace Sys2Proof.Machine

/-! ### The layout of the window (R36; 10_state.md R17) -/

/-- The offset of a register. -/
def regOffset : Reg → Nat
  | .cmd => 0x000
  | .status => 0x004
  | .keyLen => 0x008
  | .inLen => 0x00C
  | .outCount => 0x010
  | .op i => 0x020 + 4 * i.val
  | .result => 0x040
  | .subkey i => 0x050 + 4 * i.val
  | .trace i => 0x060 + 4 * i.val

/-- The offset of a location. -/
def locOffset : Loc → Nat
  | .reg r => regOffset r
  | .keyWord w => bufOffset .key + 4 * w
  | .inWord w => bufOffset .inp + 4 * w
  | .outWord w => bufOffset .out + 4 * w

/-- Whether the window maps a location: every register, and the buffer words within capacity (R36). -/
def locMapped (p : Params) : Loc → Bool
  | .reg _ => true
  | .keyWord w => decide (w < p.keyBufBytes / 4)
  | .inWord w => decide (w < p.inBufBytes / 4)
  | .outWord w => decide (w < p.outBufWords)

/-- The single registers by offset (10_state.md R17). -/
def singleReg (offset : Nat) : Option Reg :=
  match offset with
  | 0x000 => some .cmd
  | 0x004 => some .status
  | 0x008 => some .keyLen
  | 0x00C => some .inLen
  | 0x010 => some .outCount
  | 0x040 => some .result
  | _ => none

/-- The index of the word at `offset` in an array of n words that starts at `start`, if it lies in it. -/
def wordIndex (start n offset : Nat) : Option (Fin n) :=
  if h : start ≤ offset ∧ (offset - start) / 4 < n then some ⟨(offset - start) / 4, h.2⟩ else none

/-- The location at an offset of the window: none where the offset is misaligned (R39), reserved or unmapped (R36). -/
def locate (p : Params) (offset : Nat) : Option Loc :=
  if offset % 4 = 0 then
    ((singleReg offset).map .reg).or
    (((wordIndex 0x020 8 offset).map (fun i => .reg (.op i))).or
    (((wordIndex 0x050 4 offset).map (fun i => .reg (.subkey i))).or
    (((wordIndex 0x060 8 offset).map (fun i => .reg (.trace i))).or
    (((wordIndex 0x100 (p.keyBufBytes / 4) offset).map (fun w => .keyWord w.val)).or
    (((wordIndex 0x400 (p.inBufBytes / 4) offset).map (fun w => .inWord w.val)).or
    ((wordIndex 0x800 p.outBufWords offset).map (fun w => .outWord w.val)))))))
  else none

/-- The locations the host may write: CMD, KEY_LEN, IN_LEN, OP[i], and the KEY_BUF and IN_BUF words (R42). -/
def locWritable : Loc → Bool
  | .reg .cmd => true
  | .reg .keyLen => true
  | .reg .inLen => true
  | .reg (.op _) => true
  | .keyWord _ => true
  | .inWord _ => true
  | .reg .status => false
  | .reg .outCount => false
  | .reg .result => false
  | .reg (.subkey _) => false
  | .reg (.trace _) => false
  | .outWord _ => false

/-- The output locations, whose reads while BUSY = 1 return an unspecified value: RESULT, SUBKEY[i], TRACE[i], OUT_COUNT and
the OUT_BUF words (R45). -/
def locIsOutput : Loc → Bool
  | .reg .result => true
  | .reg (.subkey _) => true
  | .reg (.trace _) => true
  | .reg .outCount => true
  | .outWord _ => true
  | .reg .cmd => false
  | .reg .status => false
  | .reg .keyLen => false
  | .reg .inLen => false
  | .reg (.op _) => false
  | .keyWord _ => false
  | .inWord _ => false

/-! ### Reads and writes -/

/-- A location's current 32-bit value (R41), buffer words little-endian (R38). -/
def readLoc (s : State) : Loc → Word
  | .reg .cmd => s.cmd
  | .reg .status => statusWord s
  | .reg .keyLen => s.keyLen
  | .reg .inLen => s.inLen
  | .reg .outCount => s.outCount
  | .reg (.op i) => s.op[i]
  | .reg .result => s.result
  | .reg (.subkey i) => s.subkey[i]
  | .reg (.trace i) => s.trace[i]
  | .keyWord w => memRead s .key (4 * w) 4
  | .inWord w => memRead s .inp (4 * w) 4
  | .outWord w => memRead s .out (4 * w) 4

/-- Store v at a writable location; a write to CMD also issues the command (R42). The read-only locations store nothing. -/
def writeLoc (s : State) (l : Loc) (v : Word) : State :=
  match l with
  | .reg .cmd => s.issue v
  | .reg .keyLen => s.withKeyLen v
  | .reg .inLen => s.withInLen v
  | .reg (.op i) => s.withOp i v
  | .keyWord w => memWrite s .key (4 * w) 4 v
  | .inWord w => memWrite s .inp (4 * w) 4 v
  | .reg .status => s
  | .reg .outCount => s
  | .reg .result => s
  | .reg (.subkey _) => s
  | .reg (.trace _) => s
  | .outWord _ => s

/-- `BusRead(addr)`: ERR at an unmapped offset (R40 (a), (b)); a free value at an output location while busy (R45); else the
current value (R41). The free draw changes no state of the core, only the model's count of draws (log 4). -/
def busRead (s : State) (offset : Nat) : BusResp × State :=
  match locate s.params offset with
  | none => (.err, s)
  | some l =>
    if s.busy && locIsOutput l then (.okData (Config.freeWord s.draws), s.drawn)
    else (.okData (readLoc s l), s)

/-- `BusWrite(addr, v)`: ERR and no change under any of R40's conditions, (a) and (b) by the offset, (c) a read-only location,
(d) busy (R44); else OK and the store (R42). -/
def busWrite (s : State) (offset : Nat) (v : Word) : BusResp × State :=
  match locate s.params offset with
  | none => (.err, s)
  | some l =>
    if locWritable l && !s.busy then (.ok, writeLoc s l v)
    else (.err, s)

/-- An access at an offset of the window. -/
def busOp (s : State) (offset : Nat) : BusOp → BusResp × State
  | .read => busRead s offset
  | .write v => busWrite s offset v

/-- `addr = host_address − BASE`, where the address falls into the core's window (R36). -/
def windowOffset (p : Params) (address : Nat) : Option Nat :=
  if p.base ≤ address ∧ address < p.base + 0x1000 then some (address - p.base) else none

/-- An access by a bus master: its response and the state after it, the response noted; none outside the window (log 7). -/
def busAccess (s : State) (a : Access) : Option (BusResp × State) :=
  match windowOffset s.params a.address with
  | none => none
  | some offset =>
    let r := busOp s offset a.op
    some (r.1, r.2.responded r.1)

end Sys2Proof.Machine
end

