-- ==== Sys2Proof/Machine/HostAgent.lean ====
section
/-! DEFINITION. The host agent: one statement of a host program (30_encoding.md R62), and the pseudo-instructions (R63). Names,
labels and branches "cause no bus access, and the core does not see them". -/

namespace Sys2Proof.Machine

/-- The value of an expression. A name that has not been set has a free value (log 8). Arithmetic is modulo 2^32; a shift
moves bits past either end, which are lost (R62, 00_scope.md R10). -/
def evalExpr (names : List (Nat × Word)) : HostExpr → Word
  | .lit v => v
  | .name n => (assocGet names n).getD (Config.freeName n)
  | .add a b => evalExpr names a + evalExpr names b
  | .sub a b => evalExpr names a - evalExpr names b
  | .and a b => evalExpr names a &&& evalExpr names b
  | .or a b => evalExpr names a ||| evalExpr names b
  | .xor a b => evalExpr names a ^^^ evalExpr names b
  | .shl a b => evalExpr names a <<< (evalExpr names b).toNat
  | .shr a b => evalExpr names a >>> (evalExpr names b).toNat
  | .bits a hi lo => bitField (evalExpr names a) hi lo

/-- The offset `<loc>` names: a register's, a buffer word's, or the raw one (R62). -/
def evalLoc (names : List (Nat × Word)) : HostLoc → Nat
  | .reg r => regOffset r
  | .keyBuf e => locOffset (.keyWord (evalExpr names e).toNat)
  | .inBuf e => locOffset (.inWord (evalExpr names e).toNat)
  | .outBuf e => locOffset (.outWord (evalExpr names e).toNat)
  | .raw e => (evalExpr names e).toNat

/-- The comparisons of `if`, unsigned (R62). -/
def evalCmp : HostCmp → Word → Word → Bool
  | .eq, a, b => decide (a.toNat = b.toNat)
  | .ne, a, b => decide (a.toNat ≠ b.toNat)
  | .lt, a, b => decide (a.toNat < b.toNat)
  | .ge, a, b => decide (a.toNat ≥ b.toNat)

/-- The index of the statement that marks a label, counted from i. -/
def findLabel (l : Nat) : List HostStmt → (i : Nat) → Option Nat
  | [], _ => none
  | stmt :: rest, i => if stmt = .label l then some i else findLabel l rest (i + 1)

/-- The host goes on at a label (log 8). -/
def hostJump (s : State) (l : Nat) : Result :=
  match findLabel l s.prog 0 with
  | some pc => .next (s.withHostPc pc)
  | none => .fault .unknownLabel

/-- The host-local name of an RD takes the data read. With ERR there is "no data", and the name has a free value (log 8). -/
def State.nameRead (s : State) (name : Option Nat) (r : BusResp) : State :=
  match name, r with
  | some n, .okData d => s.withName n d
  | some n, .err => (s.withName n (Config.freeWord s.draws)).drawn
  | some _, .ok => s
  | none, _ => s

/-- One statement of a host program (R62). WR and RD are one bus access each, at BASE plus the offset. -/
def hostStmt (stmt : HostStmt) (s : State) : Result :=
  match stmt with
  | .wr l e =>
    match busAccess s ⟨s.params.base + evalLoc s.names l, .write (evalExpr s.names e)⟩ with
    | some (_, s') => .next (s'.withHostPc (s.hostPc + 1))
    | none => .fault .outsideWindow
  | .rd l name =>
    match busAccess s ⟨s.params.base + evalLoc s.names l, .read⟩ with
    | some (r, s') => .next ((s'.nameRead name r).withHostPc (s.hostPc + 1))
    | none => .fault .outsideWindow
  | .set n e => .next ((s.withName n (evalExpr s.names e)).withHostPc (s.hostPc + 1))
  | .label _ => .next (s.withHostPc (s.hostPc + 1))
  | .goto l => hostJump s l
  | .ifGoto a c b l =>
    if evalCmp c (evalExpr s.names a) (evalExpr s.names b) then hostJump s l
    else .next (s.withHostPc (s.hostPc + 1))

/-- A turn of the host agent: its next statement; nothing once its last statement has executed (70_reset_and_hazards.md
R127). -/
def hostStep (s : State) : Result :=
  match s.prog[s.hostPc]? with
  | some stmt => hostStmt stmt s
  | none => .next s

/-- A bus master's turn with one given access (60_exceptions.md R112). -/
def busStep (a : Access) (s : State) : Result :=
  match busAccess s a with
  | some (_, s') => .next s'
  | none => .fault .outsideWindow

/-! ### Pseudo-instructions (R63) -/

/-- `ISSUE <command>` is `WR CMD, enc(<command>)`. -/
def pseudoIssue (c : Instr) : List HostStmt := [.wr (.reg .cmd) (.lit (encode c))]

/-- `WAIT` is `loop: RD STATUS -> s; if s[0] == 1 goto loop`, with the label and the name it uses. -/
def pseudoWait (l n : Nat) : List HostStmt :=
  [.label l, .rd (.reg .status) (some n), .ifGoto (.bits (.name n) 0 0) .eq (.lit 1) l]

/-- `RUN <command>` is `ISSUE <command>; WAIT`. -/
def pseudoRun (c : Instr) (l n : Nat) : List HostStmt := pseudoIssue c ++ pseudoWait l n

/-- The word `{b3, b2, b1, b0}` of the first bytes of a list, positions past its end filled with 0. -/
def packWord (bytes : List Byte) : Word :=
  zext32 (bytes.getD 3 0) <<< 24 ||| zext32 (bytes.getD 2 0) <<< 16 ||| zext32 (bytes.getD 1 0) <<< 8 |||
    zext32 (bytes.getD 0 0)

/-- The buffer writes of WRBYTES for words w, w+1, …, `words` of them. -/
def writeWords (loc : HostExpr → HostLoc) (bytes : List Byte) : (words w : Nat) → List HostStmt
  | 0, _ => []
  | words + 1, w =>
    .wr (loc (.lit (BitVec.ofNat 32 w))) (.lit (packWord (bytes.drop (4 * w)))) :: writeWords loc bytes words (w + 1)

/-- `WRBYTES KEY_BUF, b0, ..., b(m-1)`: the words 0..ceil(m/4)-1, then `WR KEY_LEN, m`. -/
def pseudoWriteKey (bytes : List Byte) : List HostStmt :=
  writeWords .keyBuf bytes ((bytes.length + 3) / 4) 0 ++ [.wr (.reg .keyLen) (.lit (BitVec.ofNat 32 bytes.length))]

/-- `WRBYTES IN_BUF, b0, ..., b(m-1)`: the words 0..ceil(m/4)-1, then `WR IN_LEN, m`. -/
def pseudoWriteIn (bytes : List Byte) : List HostStmt :=
  writeWords .inBuf bytes ((bytes.length + 3) / 4) 0 ++ [.wr (.reg .inLen) (.lit (BitVec.ofNat 32 bytes.length))]

end Sys2Proof.Machine
end

