-- ==== Sys2Proof/Machine/Turns.lean ====
section
/-! DEFINITION. The turns of the three agents (10_state.md R15): the core's completion step, and who moves next. -/

namespace Sys2Proof.Machine

/-- The core's completion step (60_exceptions.md R105): enabled exactly when BUSY = 1; the word in CMD is decoded and its
command performed, or IllegalCommand is raised. A turn of the core while it is not enabled changes nothing (log 6). -/
def coreStep (s : State) : Result :=
  if s.busy then
    match decode s.cmd with
    | .ok i => exec i s
    | .error _ => raise .illegalCommand s
  else .next s

/-- Who moves next: the head of the list of turns. When the list is empty the core moves if a command is pending, so every
command completes (70_reset_and_hazards.md R124); else the host, while its program has a statement left; else no one
(60_exceptions.md R114; log 1, log 16). -/
def State.mover (s : State) : Option Turn :=
  match s.turns with
  | t :: _ => some t
  | [] => if s.busy then some .core else if s.hostPc < s.prog.length then some .host else none

/-- The turn taken is struck off the list. -/
def State.tookTurn (s : State) : State := s.withTurns s.turns.tail

/-- One turn of one agent. -/
def runTurn (t : Turn) (s : State) : Result :=
  match t with
  | .core => coreStep s
  | .host => hostStep s
  | .bus a => busStep a s
  | .reset => .next s.afterReset

/-- One step of the machine: the turn of whoever moves next; with no one to move the state stays (log 6). -/
def stepTurn (s : State) : Result :=
  match s.mover with
  | some t => runTurn t s.tookTurn
  | none => .next s

/-- The state in which the very next step completes the command w: w has been written to CMD and accepted, and the core has
the next turn (log 5). -/
def State.pendingCommand (s : State) (w : Word) : State := (s.issue w).withTurns (.core :: s.turns)

end Sys2Proof.Machine
end

