-- ==== Sys2Proof/Machine/Step.lean ====
section
/-! DEFINITION. The step function, and the placing of a command for the next step. -/

namespace Sys2Proof.Machine

/-- One step of the machine. -/
def step (s : State) : Host.Outcome State Fault Refusal := stepTurn s

/-- s with the command word of nbits bits w as the command the very next step completes (log 5). -/
def State.withFetchWord (s : State) (nbits w : Nat) : State := s.pendingCommand (tableWord nbits w)

end Sys2Proof.Machine
end

