-- ==== Sys2Proof/Safety.lean ====
section
/-! DEFINITION. What holds of every state of a machine that runs from reset: the invariant the claims use. -/

namespace Sys2Proof.Machine

/-- STATUS holds a value the core can show: BUSY and DONE never together (10_state.md R20), and an error code only after a
completed command, of 0 to 4 (R21; 60_exceptions.md R101). -/
structure StatusInv (s : State) : Prop where
  busy_excludes_done : s.busy = true → s.doneBit = false
  error_only_when_done : s.doneBit = false → s.err = 0
  error_in_range : s.err.toNat ≤ 4

/-- The buffers hold bytes only at offsets the window maps (20_memory.md R36), listed in the canonical form (log 3). -/
structure BufferInv (s : State) : Prop where
  canonical : Memory.wf s.mem = true
  within_capacity : ∀ cell ∈ s.mem,
    (0x100 ≤ cell.1 ∧ cell.1 < 0x100 + s.params.keyBufBytes) ∨
    (0x400 ≤ cell.1 ∧ cell.1 < 0x400 + s.params.inBufBytes) ∨
    (0x800 ≤ cell.1 ∧ cell.1 < 0x800 + 4 * s.params.outBufWords)

/-- The output registers hold values the core can write: each SUBKEY in 0..255 (10_state.md R31), OUT_COUNT in
0..OUT_BUF_WORDS (R25). -/
structure OutputInv (s : State) : Prop where
  subkeys_are_bytes : ∀ i : Fin 4, (s.subkey[i]).toNat ≤ 255
  count_in_range : s.outCount.toNat ≤ s.params.outBufWords

/-- The machine's invariant. -/
structure Inv (s : State) : Prop where
  legal : s.params.Legal
  status : StatusInv s
  buffers : BufferInv s
  outputs : OutputInv s

/-- t is s to the core: its registers and buffers are the same. Only the model's own fields may differ: the turns, the host
agent, the responses and the count of free draws. -/
structure CoreKept (s t : State) : Prop where
  params : t.params = s.params
  cmd : t.cmd = s.cmd
  busy : t.busy = s.busy
  doneBit : t.doneBit = s.doneBit
  err : t.err = s.err
  keyLen : t.keyLen = s.keyLen
  inLen : t.inLen = s.inLen
  outCount : t.outCount = s.outCount
  op : t.op = s.op
  result : t.result = s.result
  subkey : t.subkey = s.subkey
  trace : t.trace = s.trace
  mem : t.mem = s.mem
  epoch : t.epoch = s.epoch

/-- An output register or OUT word as the host may rely on it: no command is pending, the last one completed, and it raised
no error (70_reset_and_hazards.md R120, R123). -/
def ResultsValid (s : State) : Prop := s.busy = false ∧ s.doneBit = true ∧ s.err = 0

end Sys2Proof.Machine
end

