-- ==== Sys2Proof/Certificates/Slice0/Obligations.lean ====
section
/-! DEFINITION. The statements for the provers, from the spec's numbered rules. A command's result is stated as the whole next
state, so that each such statement is also the command's frame: every field it does not name is unchanged. All hold for every
value of the parameters and of the free values. -/

open Sys2Proof Sys2Proof.Machine

/-! ### Encoding (30_encoding.md) -/

/-- The ten command words and the two rotates at their largest amount, written out from the encodings of R57 and R61, and four
words that are illegal (95_test_vectors.md section 2.1). -/
def Obligations.WrittenOutWordsDecode : Prop :=
  decode 0b00000000000000000000000000000001#32 = .ok .add ∧
  decode 0b00000000000000000000000000000010#32 = .ok .mul ∧
  decode 0b00000000000000000000000000000011#32 = .ok .xor ∧
  decode 0b00000000000000000000000100000100#32 = .ok (.rotr 1) ∧
  decode 0b00000000000000000001111100000100#32 = .ok (.rotr 31) ∧
  decode 0b00000000000000000000000100000101#32 = .ok (.rotl 1) ∧
  decode 0b00000000000000000001111100000101#32 = .ok (.rotl 31) ∧
  decode 0b00000000000000000000000000010000#32 = .ok .keysched ∧
  decode 0b00000000000000000000000000100000#32 = .ok .mixf ∧
  decode 0b00000000000000000000000000100001#32 = .ok .mixl ∧
  decode 0b00000000000000000000000000100010#32 = .ok .encblk ∧
  decode 0b00000000000000000000000000110000#32 = .ok .stream ∧
  decode 0x00000000#32 = .error .unassignedOpcode ∧
  decode 0x00000101#32 = .error .amountOnNonRotate ∧
  decode 0x00002004#32 = .error .reservedBits ∧
  decode 0x80000001#32 = .error .reservedBits

/-- R57, R58: a word decodes to the command of the row it selects, `(w & mask) == match`, the rotates with AMT = w[12:8]; and
to ILLEGAL where it selects none. -/
def Obligations.DecodeFollowsOpcodeTable : Prop :=
  ∀ w : Word,
    (decode w = .ok .add ↔ w &&& 0xFFFFFFFF = 0x00000001) ∧
    (decode w = .ok .mul ↔ w &&& 0xFFFFFFFF = 0x00000002) ∧
    (decode w = .ok .xor ↔ w &&& 0xFFFFFFFF = 0x00000003) ∧
    (∀ n, decode w = .ok (.rotr n) ↔ w &&& 0xFFFFE0FF = 0x00000004 ∧ n = w.extractLsb' 8 5) ∧
    (∀ n, decode w = .ok (.rotl n) ↔ w &&& 0xFFFFE0FF = 0x00000005 ∧ n = w.extractLsb' 8 5) ∧
    (decode w = .ok .keysched ↔ w &&& 0xFFFFFFFF = 0x00000010) ∧
    (decode w = .ok .mixf ↔ w &&& 0xFFFFFFFF = 0x00000020) ∧
    (decode w = .ok .mixl ↔ w &&& 0xFFFFFFFF = 0x00000021) ∧
    (decode w = .ok .encblk ↔ w &&& 0xFFFFFFFF = 0x00000022) ∧
    (decode w = .ok .stream ↔ w &&& 0xFFFFFFFF = 0x00000030) ∧
    ((∃ k, decode w = .error k) ↔ ∀ row ∈ opcodeRows, w &&& row.mask ≠ row.bits)

/-- Decoding an encoded command gives it back, and a word that decodes is the encoding of its command: no bit of a legal word
is dropped (R57, R58, R61). -/
def Obligations.DecodeAndEncodeAgree : Prop :=
  (∀ i : Instr, decode (encode i) = .ok i) ∧ ∀ (w : Word) (i : Instr), decode w = .ok i → encode i = w

/-- R59: the illegal words are exactly those of its three kinds, and the core's step on one raises IllegalCommand and does
nothing else. -/
def Obligations.IllegalWordsRaiseIllegalCommand : Prop :=
  (∀ w : Word, (∃ k, decode w = .error k) ↔
    (w.extractLsb' 0 8 ∉ ([0x01, 0x02, 0x03, 0x04, 0x05, 0x10, 0x20, 0x21, 0x22, 0x30] : List (BitVec 8)) ∨
     w.extractLsb' 13 19 ≠ 0 ∨
     (w.extractLsb' 8 5 ≠ 0 ∧ w.extractLsb' 0 8 ≠ 0x04 ∧ w.extractLsb' 0 8 ≠ 0x05))) ∧
  ∀ s k, s.busy = true → decode s.cmd = .error k →
    coreStep s = .next { s with busy := false, doneBit := true, err := 1 }

/-- R61: what an assembler accepts and refuses, and the word of each command. -/
def Obligations.AssemblerAcceptsAndRefuses : Prop :=
  (∀ n : Nat, n ≤ 31 →
    (assemble ⟨.ROTR, some n⟩).map encode = some (0x00000004 ||| (BitVec.ofNat 32 n <<< 8)) ∧
    (assemble ⟨.ROTL, some n⟩).map encode = some (0x00000005 ||| (BitVec.ofNat 32 n <<< 8))) ∧
  (∀ n : Int, n < 0 ∨ 31 < n → assemble ⟨.ROTR, some n⟩ = none ∧ assemble ⟨.ROTL, some n⟩ = none) ∧
  assemble ⟨.ROTR, none⟩ = none ∧ assemble ⟨.ROTL, none⟩ = none ∧
  (∀ m n, m ≠ .ROTR → m ≠ .ROTL → assemble ⟨m, some n⟩ = none) ∧
  (assemble ⟨.ADD, none⟩).map encode = some 0x00000001 ∧
  (assemble ⟨.MUL, none⟩).map encode = some 0x00000002 ∧
  (assemble ⟨.XOR, none⟩).map encode = some 0x00000003 ∧
  (assemble ⟨.KEYSCHED, none⟩).map encode = some 0x00000010 ∧
  (assemble ⟨.MIXF, none⟩).map encode = some 0x00000020 ∧
  (assemble ⟨.MIXL, none⟩).map encode = some 0x00000021 ∧
  (assemble ⟨.ENCBLK, none⟩).map encode = some 0x00000022 ∧
  (assemble ⟨.STREAM, none⟩).map encode = some 0x00000030

/-! ### The units (40_primitives.md section 1) -/

/-- R65 and R69: the adder wraps modulo 2^32, also as two's complement, and is commutative and associative with identity 0;
the XOR unit works bit by bit, is commutative and associative with identity 0, and cancels. -/
def Obligations.AdderAndXorLaws : Prop :=
  (∀ a b : Word, (add32 a b).toNat = (a.toNat + b.toNat) % 2 ^ 32) ∧
  (∀ a b : Word, (add32 a b).toInt = (a.toInt + b.toInt).bmod (2 ^ 32)) ∧
  add32 0xFFFFFFFF 1 = 0 ∧
  (∀ a b : Word, add32 a b = add32 b a) ∧
  (∀ a b c : Word, add32 (add32 a b) c = add32 a (add32 b c)) ∧
  (∀ a : Word, add32 a 0 = a ∧ add32 0 a = a) ∧
  (∀ (a b : Word) (k : Nat), (xor32 a b).getLsbD k = (a.getLsbD k ^^ b.getLsbD k)) ∧
  (∀ a b : Word, xor32 a b = xor32 b a) ∧
  (∀ a b c : Word, xor32 (xor32 a b) c = xor32 a (xor32 b c)) ∧
  (∀ a : Word, xor32 a 0 = a ∧ xor32 0 a = a ∧ xor32 a a = 0)

/-- R66: the two rotations as shifts, and their laws. `0 - n` on the 5-bit amount is `(32 − n) mod 32`. -/
def Obligations.RotationLaws : Prop :=
  (∀ v : Word, rotr32 v 0 = v ∧ rotl32 v 0 = v) ∧
  (∀ (v : Word) (n : BitVec 5), n ≠ 0 →
    rotr32 v n = ((v >>> n.toNat) ||| (v <<< (32 - n.toNat))) ∧
    rotl32 v n = ((v <<< n.toNat) ||| (v >>> (32 - n.toNat)))) ∧
  (∀ v : Word, (fun x => rotr32 x 1)^[32] v = v) ∧
  (∀ v : Word, rotr32 (rotr32 v 1) 31 = v ∧ rotl32 (rotl32 v 1) 31 = v) ∧
  (∀ (v : Word) (n : BitVec 5), rotl32 v n = rotr32 v (0 - n)) ∧
  (∀ n : BitVec 5, Function.Bijective (fun v => rotr32 v n) ∧ Function.Bijective (fun v => rotl32 v n)) ∧
  (∀ (v : Word) (n : BitVec 5), popcount (rotr32 v n) = popcount v ∧ popcount (rotl32 v n) = popcount v)

/-- R68's laws of the multiplier at zero, one, powers of two and all ones, in both directions. -/
def Obligations.MultiplierIdentities : Prop :=
  ∀ dir : RotDir,
    (∀ a, mul32 dir a 0 = 0) ∧ (∀ a, mul32 dir a 1 = a) ∧ (∀ b, mul32 dir 0 b = 0) ∧
    (∀ (a : Word) (i : Nat), i < 32 → mul32 dir a (BitVec.ofNat 32 (2 ^ i)) =
      match dir with
      | .left => a.rotateLeft i
      | .right => a.rotateRight i) ∧
    (∀ a, mul32 dir a 0xFFFFFFFF = BitVec.ofNat 32 ((2 ^ 32 - popcount a) % 2 ^ 32))

/-- R68: under LEFT the multiplier is commutative; under RIGHT it is not. -/
def Obligations.MultiplierCommutesUnderLeft : Prop :=
  (∀ a b : Word, mul32 .left a b = mul32 .left b a) ∧
  mul32 .right 3 5 = 0xC0000003 ∧ mul32 .right 5 3 = 0x80000007

/-- R68: under LEFT the multiplier gives the ordinary product when no partial product wraps, and not in general. -/
def Obligations.MultiplierIsOrdinaryWithoutWraps : Prop :=
  (∀ a b : Word, (∀ i < 32, b.getLsbD i = true → a.toNat < 2 ^ (32 - i)) →
    (mul32 .left a b).toNat = a.toNat * b.toNat % 2 ^ 32) ∧
  mul32 .left 0x80000000 2 = 1

/-! ### The primitive commands (40_primitives.md section 2) -/

/-- R70: ADD. -/
def Obligations.AddCompletes : Prop :=
  decode 0x00000001 = .ok .add ∧
  ∀ s : State, exec .add s = .next { s with
    result := BitVec.ofNat 32 ((s.op[0].toNat + s.op[1].toNat) % 2 ^ 32)
    busy := false, doneBit := true, err := 0 }

/-- R71 with R67: MUL's RESULT is the sum, modulo 2^32, of OP[0] rotated by i in the direction MUL_ROT_DIR over the set bits i
of OP[1]. -/
def Obligations.MulCompletes : Prop :=
  decode 0x00000002 = .ok .mul ∧
  ∀ s : State, exec .mul s = .next { s with
    result := (List.range 32).foldl (fun acc i =>
      if s.op[1].getLsbD i then
        acc + (match s.params.mulRotDir with
          | .left => s.op[0].rotateLeft i
          | .right => s.op[0].rotateRight i)
      else acc) 0
    busy := false, doneBit := true, err := 0 }

/-- R72: XOR, bit by bit. -/
def Obligations.XorCompletes : Prop :=
  decode 0x00000003 = .ok .xor ∧
  ∀ s : State, ∃ r : Word,
    exec .xor s = .next { s with result := r, busy := false, doneBit := true, err := 0 } ∧
    ∀ k < 32, r.getLsbD k = (s.op[0].getLsbD k ^^ s.op[1].getLsbD k)

/-- R73: ROTR #n moves bit k + n of OP[0], counted modulo 32, to bit k, for every amount n in 0..31. -/
def Obligations.RotrCompletes : Prop :=
  ∀ n : BitVec 5,
    decode (0x00000004 ||| (n.setWidth 32 <<< 8)) = .ok (.rotr n) ∧
    ∀ s : State, ∃ r : Word,
      exec (.rotr n) s = .next { s with result := r, busy := false, doneBit := true, err := 0 } ∧
      ∀ k < 32, r.getLsbD k = s.op[0].getLsbD ((k + n.toNat) % 32)

/-- R74: ROTL #n moves bit k of OP[0] to bit k + n, counted modulo 32, for every amount n in 0..31. -/
def Obligations.RotlCompletes : Prop :=
  ∀ n : BitVec 5,
    decode (0x00000005 ||| (n.setWidth 32 <<< 8)) = .ok (.rotl n) ∧
    ∀ s : State, ∃ r : Word,
      exec (.rotl n) s = .next { s with result := r, busy := false, doneBit := true, err := 0 } ∧
      ∀ k < 32, r.getLsbD ((k + n.toNat) % 32) = s.op[0].getLsbD k

/-! ### The key schedule (41_key_schedule.md) -/

/-- R75, R76, R78: KEYSCHED with a valid key length writes the first four KEY bytes, zero-extended, to SUBKEY[0..3]; a length
past the buffer raises BadLength, else a length below 4 raises InvalidKeyLength. -/
def Obligations.KeyschedCompletes : Prop :=
  decode 0x00000010 = .ok .keysched ∧
  ∀ s : State,
    (s.params.keyBufBytes < s.keyLen.toNat →
      exec .keysched s = .next { s with busy := false, doneBit := true, err := 2 }) ∧
    (s.keyLen.toNat ≤ s.params.keyBufBytes → s.keyLen.toNat < 4 →
      exec .keysched s = .next { s with busy := false, doneBit := true, err := 3 }) ∧
    (4 ≤ s.keyLen.toNat → s.keyLen.toNat ≤ s.params.keyBufBytes →
      exec .keysched s = .next { s with
        subkey := #v[(s.readByte 0x100).setWidth 32, (s.readByte 0x101).setWidth 32,
          (s.readByte 0x102).setWidth 32, (s.readByte 0x103).setWidth 32]
        busy := false, doneBit := true, err := 0 })

/-- "KEY bytes at index 4 and above are never read" (R75): KEYSCHED on two states with the same KEY_LEN, capacity and first
four KEY bytes ends alike. -/
def Obligations.KeyschedReadsFourBytes : Prop :=
  ∀ s t : State, t.params.keyBufBytes = s.params.keyBufBytes → t.keyLen = s.keyLen →
    (∀ i < 4, t.readByte (0x100 + i) = s.readByte (0x100 + i)) →
    ∃ u w, exec .keysched s = .next u ∧ exec .keysched t = .next w ∧ w.err = u.err ∧
      (u.err = 0 → w.subkey = u.subkey)

/-! ### The round engine (42_round_transform.md) -/

/-- R80, R82: MIXF, with its corner cases k = 0 and k = 1. -/
def Obligations.MixfCompletes : Prop :=
  decode 0x00000020 = .ok .mixf ∧
  ∀ s : State, ∃ r : Word,
    exec .mixf s = .next { s with result := r, busy := false, doneBit := true, err := 0 } ∧
    r = ((mul32 s.params.mulRotDir s.op[0] s.op[4] + s.op[1] + s.op[2]) ^^^ s.op[3]) ∧
    (s.op[4] = 0 → r = ((s.op[1] + s.op[2]) ^^^ s.op[3])) ∧
    (s.op[4] = 1 → r = ((s.op[0] + s.op[1] + s.op[2]) ^^^ s.op[3]))

/-- R81, R83: MIXL, with its corner cases k = 0 and k = 1. -/
def Obligations.MixlCompletes : Prop :=
  decode 0x00000021 = .ok .mixl ∧
  ∀ s : State, ∃ r : Word,
    exec .mixl s = .next { s with result := r, busy := false, doneBit := true, err := 0 } ∧
    r = (mul32 s.params.mulRotDir s.op[0] s.op[4] ^^^ s.op[1]) + s.op[2] + s.op[3] ∧
    (s.op[4] = 0 → r = s.op[1] + s.op[2] + s.op[3]) ∧
    (s.op[4] = 1 → r = (s.op[0] ^^^ s.op[1]) + s.op[2] + s.op[3])

/-- R84: the default OPERAND_SCHEDULE, with block words and steps counted from 0: N1 of step 1 is X1, and step s uses the three
words after X_j in cyclic order. -/
def Obligations.DefaultScheduleIsCyclic : Prop :=
  State.reset.params.schedule.first = 0 ∧
  State.reset.params.schedule.sel =
    #v[(1, 2, 3), (2, 3, 0), (3, 0, 1), (0, 1, 2), (1, 2, 3), (2, 3, 0), (3, 0, 1), (0, 1, 2)]

/-- R85, R86: ENCBLK writes the eight step results to TRACE and the last to RESULT. Step i + 1 feeds the previous result
forward as N1 (step 1: the block word `first`), takes N2 to N4 from the block by the schedule and k = Z1..Z4 twice over, and
is mix_forward for the first four steps, mix_final for the last four. -/
def Obligations.EncblkCompletes : Prop :=
  decode 0x00000022 = .ok .encblk ∧
  ∀ s : State, ∃ r : Vector Word 8,
    exec .encblk s = .next { s with trace := r, result := r[7], busy := false, doneBit := true, err := 0 } ∧
    ∀ i : Fin 8,
      let x : Vector Word 4 := #v[s.op[0], s.op[1], s.op[2], s.op[3]]
      let z : Vector Word 4 := #v[s.op[4], s.op[5], s.op[6], s.op[7]]
      let n1 := if i.val = 0 then x[s.params.schedule.first] else r[i.val - 1]
      let (i2, i3, i4) := s.params.schedule.sel[i]
      let m := mul32 s.params.mulRotDir n1 (z[i.val % 4]'(Nat.mod_lt _ (by decide)))
      r[i] = if i.val < 4 then (m + x[i2] + x[i3]) ^^^ x[i4] else (m ^^^ x[i2]) + x[i3] + x[i4]

/-! ### The stream controller (43_pipeline.md) -/

/-- R89 to R95, R98: STREAM with valid lengths completes for the n blocks of R95: OUT[j] is the output of block j under the
SubkeySet for every j < n, SUBKEY and OUT_COUNT are written, every other byte of the buffers reads as before, and every
other register is unchanged. -/
def Obligations.StreamCompletes : Prop :=
  decode 0x00000030 = .ok .stream ∧
  ∀ (s : State) (n : Nat),
    s.keyLen.toNat ≤ s.params.keyBufBytes → s.inLen.toNat ≤ s.params.inBufBytes → 4 ≤ s.keyLen.toNat →
    ((s.inLen.toNat % 4 = 0 ∧ n = s.inLen.toNat / 4) ∨
     (s.inLen.toNat % 4 ≠ 0 ∧ s.params.padPolicy = .zeroPad ∧ n = (s.inLen.toNat + 3) / 4) ∨
     (s.inLen.toNat % 4 ≠ 0 ∧ s.params.padPolicy = .truncate ∧ n = (s.inLen.toNat - s.inLen.toNat % 4) / 4)) →
    let z : Vector Word 4 := #v[(s.readByte 0x100).setWidth 32, (s.readByte 0x101).setWidth 32,
      (s.readByte 0x102).setWidth 32, (s.readByte 0x103).setWidth 32]
    let x (b : Nat) : Word := if b < s.inLen.toNat then (s.readByte (0x400 + b)).setWidth 32 else 0
    ∃ t, exec .stream s = .next t ∧
      t = { s with
        mem := t.mem, subkey := z, outCount := BitVec.ofNat 32 n, busy := false, doneBit := true, err := 0 } ∧
      (∀ j < n, readLoc t (.outWord j) =
        (encryptBlock s.params #v[x (4 * j), x (4 * j + 1), x (4 * j + 2), x (4 * j + 3)] z).1) ∧
      ∀ a, a < 0x800 ∨ 0x800 + 4 * n ≤ a → t.readByte a = s.readByte a

/-- R90: STREAM's three error conditions, the first that holds being the one raised, with nothing written but STATUS. -/
def Obligations.StreamValidatesEagerly : Prop :=
  ∀ s : State,
    (s.params.keyBufBytes < s.keyLen.toNat ∨ s.params.inBufBytes < s.inLen.toNat →
      exec .stream s = .next { s with busy := false, doneBit := true, err := 2 }) ∧
    (s.keyLen.toNat ≤ s.params.keyBufBytes → s.inLen.toNat ≤ s.params.inBufBytes → s.keyLen.toNat < 4 →
      exec .stream s = .next { s with busy := false, doneBit := true, err := 3 }) ∧
    (s.keyLen.toNat ≤ s.params.keyBufBytes → s.inLen.toNat ≤ s.params.inBufBytes → 4 ≤ s.keyLen.toNat →
      s.params.padPolicy = .reject → s.inLen.toNat % 4 ≠ 0 →
      exec .stream s = .next { s with busy := false, doneBit := true, err := 4 })

/-- R96: with IN_LEN = 0, under every policy, STREAM still checks the key, and with a valid one writes SUBKEY and OUT_COUNT = 0
and no OUT word. -/
def Obligations.StreamOfEmptyInput : Prop :=
  ∀ s : State, s.inLen = 0 →
    (s.params.keyBufBytes < s.keyLen.toNat →
      exec .stream s = .next { s with busy := false, doneBit := true, err := 2 }) ∧
    (s.keyLen.toNat ≤ s.params.keyBufBytes → s.keyLen.toNat < 4 →
      exec .stream s = .next { s with busy := false, doneBit := true, err := 3 }) ∧
    (4 ≤ s.keyLen.toNat → s.keyLen.toNat ≤ s.params.keyBufBytes →
      exec .stream s = .next { s with
        subkey := #v[(s.readByte 0x100).setWidth 32, (s.readByte 0x101).setWidth 32,
          (s.readByte 0x102).setWidth 32, (s.readByte 0x103).setWidth 32]
        outCount := 0, busy := false, doneBit := true, err := 0 })

/-- STREAM enciphers each block as ENCBLK does (R85, R86, R93): OUT word j of a STREAM that completes without error is the
RESULT of ENCBLK on the operands (block j, SubkeySet). -/
def Obligations.StreamMatchesEncblk : Prop :=
  ∀ (s t : State), exec .stream s = .next t → t.err = 0 → ∀ j < t.outCount.toNat,
    let x := inputBlock s j
    let z := t.subkey
    ∃ u, exec .encblk { s with op := #v[x[0], x[1], x[2], x[3], z[0], z[1], z[2], z[3]] } = .next u ∧
      readLoc t (.outWord j) = u.result

/-- R99: what a STREAM writes is a function of the parameters, KEY_LEN, KEY[0..3], IN_LEN and IN[0..IN_LEN−1] alone. -/
def Obligations.StreamIsDeterminedByItsInputs : Prop :=
  ∀ s t : State, t.params = s.params → t.keyLen = s.keyLen → t.inLen = s.inLen →
    (∀ i < 4, t.readByte (0x100 + i) = s.readByte (0x100 + i)) →
    (∀ b < s.inLen.toNat, t.readByte (0x400 + b) = s.readByte (0x400 + b)) →
    ∃ u w, exec .stream s = .next u ∧ exec .stream t = .next w ∧ w.err = u.err ∧
      (u.err = 0 → w.subkey = u.subkey ∧ w.outCount = u.outCount ∧
        ∀ j < u.outCount.toNat, readLoc w (.outWord j) = readLoc u (.outWord j))

/-- R97: a block's output does not depend on the other blocks: two inputs of one length, alike in the four bytes of block j,
give the same OUT word j under the same key. -/
def Obligations.StreamBlocksAreIndependent : Prop :=
  ∀ (s t u w : State) (j : Nat), t.params = s.params → t.keyLen = s.keyLen → t.inLen = s.inLen →
    (∀ i < 4, t.readByte (0x100 + i) = s.readByte (0x100 + i)) →
    (∀ i < 4, t.readByte (0x400 + (4 * j + i)) = s.readByte (0x400 + (4 * j + i))) →
    exec .stream s = .next u → exec .stream t = .next w → u.err = 0 → j < u.outCount.toNat →
    readLoc w (.outWord j) = readLoc u (.outWord j)

/-! ### Errors and completion (60_exceptions.md) -/

/-- R101 to R103: the completion step reports exactly one code, the first condition that holds: an illegal word, a length past
its buffer, a key below 4 bytes, a partial block under REJECT; the other eight commands report none. -/
def Obligations.CompletionReportsFirstError : Prop :=
  ∀ s : State, s.busy = true → ∃ t, coreStep s = .next t ∧ t.busy = false ∧ t.doneBit = true ∧
    t.err = match decode s.cmd with
      | .error _ => 1
      | .ok .keysched =>
        if s.keyLen.toNat > s.params.keyBufBytes then 2 else if s.keyLen.toNat < 4 then 3 else 0
      | .ok .stream =>
        if s.keyLen.toNat > s.params.keyBufBytes ∨ s.inLen.toNat > s.params.inBufBytes then 2
        else if s.keyLen.toNat < 4 then 3
        else if s.inLen.toNat % 4 ≠ 0 ∧ s.params.padPolicy = .reject then 4
        else 0
      | .ok .add => 0
      | .ok .mul => 0
      | .ok .xor => 0
      | .ok (.rotr _) => 0
      | .ok (.rotl _) => 0
      | .ok .mixf => 0
      | .ok .mixl => 0
      | .ok .encblk => 0

/-- R104: a command that ends with an error changes nothing but STATUS. -/
def Obligations.ErrorsWriteOnlyStatus : Prop :=
  ∀ s t : State, s.busy = true → coreStep s = .next t → t.err ≠ 0 →
    t = { s with busy := false, doneBit := true, err := t.err }

/-- The core never writes CMD, KEY_LEN, IN_LEN, OP, KEY or IN (10_state.md R17, R26 to R28), nor anything that is not its own:
the frame of every command. -/
def Obligations.CommandsNeverWriteInputs : Prop :=
  ∀ (i : Instr) (s t : State), exec i s = .next t →
    t.params = s.params ∧ t.cmd = s.cmd ∧ t.keyLen = s.keyLen ∧ t.inLen = s.inLen ∧ t.op = s.op ∧
    t.epoch = s.epoch ∧ t.draws = s.draws ∧ t.turns = s.turns ∧ t.prog = s.prog ∧ t.hostPc = s.hostPc ∧
    t.names = s.names ∧ t.responses = s.responses ∧ ∀ a < 0x800, t.readByte a = s.readByte a

/-- "Each register has one meaning" (D22): RESULT is written by the eight Word commands alone (R30), SUBKEY by KEYSCHED and
STREAM (R31), TRACE by ENCBLK (R32), OUT_COUNT and the OUT words by STREAM (R25, R29). -/
def Obligations.OutputsAreWrittenByTheirCommands : Prop :=
  ∀ (i : Instr) (s t : State), exec i s = .next t →
    (i = .keysched ∨ i = .stream → t.result = s.result) ∧
    (i ≠ .keysched → i ≠ .stream → t.subkey = s.subkey) ∧
    (i ≠ .encblk → t.trace = s.trace) ∧
    (i ≠ .stream → t.outCount = s.outCount ∧ ∀ a, t.readByte a = s.readByte a)

/-- R108: STATUS.ERR keeps its code until the next accepted CMD write clears it; nothing else clears it, except reset. -/
def Obligations.ErrorCodePersists : Prop :=
  ∀ s t : State, step s = .next t → s.busy = false → s.mover ≠ some .reset →
    t.err = s.err ∨ (t.busy = true ∧ t.doneBit = false ∧ t.err = 0)

/-! ### Steps -/

/-- When the core has the turn with a command pending and the word in CMD decodes, the step is exec of the command, on the
state with that turn struck off; and the word that withFetchWord places is run by the very next step (R105). -/
def Obligations.StepRunsDecodedCommand : Prop :=
  (∀ (s : State) (i : Instr), s.mover = some .core → s.busy = true → decode s.cmd = .ok i →
    step s = exec i { s with turns := s.turns.tail }) ∧
  ∀ (s : State) (w : Word) (i : Instr), decode w = .ok i →
    step (s.withFetchWord 32 w.toNat) = exec i { s with cmd := w, busy := true, doneBit := false, err := 0 }

/-- R114: an idle core does nothing, and all state survives idleness: its turn changes nothing, and with no one to move the
machine stays as it is. -/
def Obligations.IdleChangesNothing : Prop :=
  (∀ s : State, s.busy = false → coreStep s = .next s) ∧
  ∀ s : State, s.turns = [] → s.busy = false → s.prog.length ≤ s.hostPc → step s = .next s

/-- A bus master's turn is exactly one access at the offset its address has from BASE (R36, R37), and its response is noted;
outside the window the model stops (log 7). -/
def Obligations.BusTurnIsOneAccess : Prop :=
  ∀ (s : State) (a : Access), s.mover = some (.bus a) →
    (s.params.base ≤ a.address → a.address < s.params.base + 0x1000 →
      ∃ r t, busOp { s with turns := s.turns.tail } (a.address - s.params.base) a.op = (r, t) ∧
        step s = .next { t with responses := r :: s.responses }) ∧
    (a.address < s.params.base ∨ s.params.base + 0x1000 ≤ a.address → step s = .fault .outsideWindow)

/-- R62: names, labels and branches of a host program cause no bus access and do not touch the core; WR and RD are one access
each. -/
def Obligations.HostStatementsTouchTheCoreByOneAccess : Prop :=
  ∀ (s t : State),
    (∀ n e, hostStmt (.set n e) s = .next t → CoreKept s t ∧ t.responses = s.responses) ∧
    (∀ l, hostStmt (.label l) s = .next t → CoreKept s t ∧ t.responses = s.responses) ∧
    (∀ l, hostStmt (.goto l) s = .next t → CoreKept s t ∧ t.responses = s.responses) ∧
    (∀ a c b l, hostStmt (.ifGoto a c b l) s = .next t → CoreKept s t ∧ t.responses = s.responses) ∧
    (∀ l e, hostStmt (.wr l e) s = .next t →
      let r := busWrite s (evalLoc s.names l) (evalExpr s.names e)
      evalLoc s.names l < 0x1000 ∧ CoreKept r.2 t ∧ t.responses = r.1 :: s.responses) ∧
    (∀ l name, hostStmt (.rd l name) s = .next t →
      let r := busRead s (evalLoc s.names l)
      evalLoc s.names l < 0x1000 ∧ CoreKept r.2 t ∧ t.responses = r.1 :: s.responses ∧
      ∀ n d, name = some n → r.1 = .okData d → assocGet t.names n = some d)

/-- R44, R121: while BUSY = 1, every write is refused with ERR and changes nothing; and no turn of the host or of a bus master
changes the core. -/
def Obligations.CoreIsFrozenWhileBusy : Prop :=
  (∀ (s : State) (offset : Nat) (v : Word), s.busy = true → busWrite s offset v = (.err, s)) ∧
  ∀ s t : State, s.busy = true → s.mover ≠ some .core → s.mover ≠ some .reset → step s = .next t → CoreKept s t

/-- R51: the operands of a pending command cannot change until it completes, in the completion step neither: CMD, KEY_LEN,
IN_LEN, OP and the KEY and IN bytes are the same after every step taken while busy, but a reset. -/
def Obligations.OperandsAreFrozenUntilCompletion : Prop :=
  ∀ s t : State, s.busy = true → s.mover ≠ some .reset → step s = .next t →
    t.cmd = s.cmd ∧ t.keyLen = s.keyLen ∧ t.inLen = s.inLen ∧ t.op = s.op ∧
    ∀ a < 0x800, t.readByte a = s.readByte a

/-- R33, R105: a command's effects appear at its completion step and nowhere else: a step that is neither that nor a reset
leaves RESULT, SUBKEY, TRACE, OUT_COUNT and every OUT byte as they were. -/
def Obligations.OutputsChangeOnlyAtCompletion : Prop :=
  ∀ s t : State, step s = .next t → s.mover ≠ some .reset → ¬ (s.mover = some .core ∧ s.busy = true) →
    s.params.Legal →
    t.result = s.result ∧ t.subkey = s.subkey ∧ t.trace = s.trace ∧ t.outCount = s.outCount ∧
    ∀ a, 0x800 ≤ a → t.readByte a = s.readByte a

/-- R19 to R21: DONE goes from 0 to 1 only at a completion step, and BUSY from 1 to 0 only there or at a reset; BUSY goes from 0
to 1 only when a host's or bus master's access issues a command, which leaves DONE and ERR 0; and DONE goes from 1 to 0 only
then or at a reset. -/
def Obligations.DoneMarksCompletion : Prop :=
  ∀ s t : State, step s = .next t →
    (s.doneBit = false → t.doneBit = true → s.mover = some .core ∧ s.busy = true) ∧
    (s.busy = true → t.busy = false → s.mover = some .core ∨ s.mover = some .reset) ∧
    (s.busy = false → t.busy = true →
      (s.mover = some .host ∨ ∃ a, s.mover = some (.bus a)) ∧ t.doneBit = false ∧ t.err = 0) ∧
    (s.doneBit = true → t.doneBit = false → (s.busy = false ∧ t.busy = true) ∨ s.mover = some .reset)

/-- R49, R120: once a command has completed without an error, its results stay readable: every step but a reset leaves the
outputs as they are, and leaves them valid or issues the next command. -/
def Obligations.ResultsStayValid : Prop :=
  ∀ s t : State, s.params.Legal → ResultsValid s → step s = .next t → s.mover ≠ some .reset →
    (ResultsValid t ∨ t.busy = true) ∧
    t.result = s.result ∧ t.subkey = s.subkey ∧ t.trace = s.trace ∧ t.outCount = s.outCount ∧
    ∀ a, 0x800 ≤ a → t.readByte a = s.readByte a

/-- No step changes a parameter (00_scope.md R8). -/
def Obligations.ParametersNeverChange : Prop :=
  ∀ s t : State, step s = .next t → t.params = s.params

/-- R124, R108: from every state with a command pending, whatever turns are listed, the command completes after at most one
step more than those turns (with DONE = 1 unless a reset intervenes), or the run stops before in one of the two faults of a
bus master (logs 7, 8). It does complete where the listed bus masters stay within the window and the host, if it is listed,
runs a program none of whose statements faults, a WAIT loop for instance. -/
def Obligations.EveryIssuedCommandCompletes : Prop :=
  ∀ s : State, s.busy = true →
    let completes (k : Nat) : Prop :=
      ∃ t, Sys2Proof.core.run k s = .next t ∧ t.busy = false ∧ (Turn.reset ∉ s.turns → t.doneBit = true)
    (∃ k ≤ s.turns.length + 1, completes k ∨
      Sys2Proof.core.run k s = .fault .outsideWindow ∨ Sys2Proof.core.run k s = .fault .unknownLabel) ∧
    ((∀ a, Turn.bus a ∈ s.turns → s.params.base ≤ a.address ∧ a.address < s.params.base + 0x1000) →
      (Turn.host ∈ s.turns → ∀ stmt ∈ s.prog, ∀ u : State, u.params = s.params → u.prog = s.prog →
        ∀ f, hostStmt stmt u ≠ .fault f) →
      ∃ k ≤ s.turns.length + 1, completes k)

/-! ### The bus (20_memory.md) -/

/-- R36 with the register map of R17: with legal parameters, an offset names a location just when it is the location's own and
the window maps it; every other offset names none. -/
def Obligations.WindowLayout : Prop :=
  regOffset .cmd = 0x000 ∧ regOffset .status = 0x004 ∧ regOffset .keyLen = 0x008 ∧ regOffset .inLen = 0x00C ∧
  regOffset .outCount = 0x010 ∧ regOffset .result = 0x040 ∧
  (∀ i : Fin 8, regOffset (.op i) = 0x020 + 4 * i.val ∧ regOffset (.trace i) = 0x060 + 4 * i.val) ∧
  (∀ i : Fin 4, regOffset (.subkey i) = 0x050 + 4 * i.val) ∧
  ∀ p : Params, p.Legal →
    (∀ offset r, locate p offset = some (.reg r) ↔ offset = regOffset r) ∧
    (∀ offset w, locate p offset = some (.keyWord w) ↔ offset = 0x100 + 4 * w ∧ w < p.keyBufBytes / 4) ∧
    (∀ offset w, locate p offset = some (.inWord w) ↔ offset = 0x400 + 4 * w ∧ w < p.inBufBytes / 4) ∧
    (∀ offset w, locate p offset = some (.outWord w) ↔ offset = 0x800 + 4 * w ∧ w < p.inBufBytes / 4)

/-- R39, R40, R106: an access gets ERR just under the conditions of R40, a misaligned offset among them, and then changes
nothing. -/
def Obligations.BusErrorsChangeNothing : Prop :=
  (∀ (p : Params) (offset : Nat), offset % 4 ≠ 0 → locate p offset = none) ∧
  (∀ (s : State) (offset : Nat), (busRead s offset).1 = .err ↔ locate s.params offset = none) ∧
  (∀ (s : State) (offset : Nat) (v : Word), (busWrite s offset v).1 = .err ↔
    s.busy = true ∨ locate s.params offset = none ∨
    ∃ l, locate s.params offset = some l ∧
      (l = .reg .status ∨ l = .reg .outCount ∨ l = .reg .result ∨ (∃ i, l = .reg (.subkey i)) ∨
        (∃ i, l = .reg (.trace i)) ∨ ∃ w, l = .outWord w)) ∧
  (∀ (s : State) (offset : Nat), (busRead s offset).1 = .err → (busRead s offset).2 = s) ∧
  ∀ (s : State) (offset : Nat) (v : Word), (busWrite s offset v).1 = .err → (busWrite s offset v).2 = s

/-- R41, R45: a read gives the location's current value and changes nothing; but an output location, while BUSY = 1, gives a
free value, and only the model's count of draws moves on. The current value is the register's (R18, R22 to R26, R30 to R32),
and of an OUT word the four bytes the model holds it in (log 10). -/
def Obligations.BusReadsGiveValues : Prop :=
  (∀ s : State,
    readLoc s (.reg .cmd) = s.cmd ∧ readLoc s (.reg .status) = statusWord s ∧ readLoc s (.reg .keyLen) = s.keyLen ∧
    readLoc s (.reg .inLen) = s.inLen ∧ readLoc s (.reg .outCount) = s.outCount ∧
    (∀ i : Fin 8, readLoc s (.reg (.op i)) = s.op[i]) ∧ readLoc s (.reg .result) = s.result ∧
    (∀ i : Fin 4, readLoc s (.reg (.subkey i)) = s.subkey[i]) ∧ (∀ i : Fin 8, readLoc s (.reg (.trace i)) = s.trace[i]) ∧
    ∀ w, readLoc s (.outWord w) = s.readByte (0x800 + 4 * w + 3) ++ s.readByte (0x800 + 4 * w + 2) ++
      s.readByte (0x800 + 4 * w + 1) ++ s.readByte (0x800 + 4 * w)) ∧
  ∀ (s : State) (offset : Nat) (l : Loc), locate s.params offset = some l →
    ((∃ r, l = .reg r ∧ (r = .result ∨ r = .outCount ∨ (∃ i, r = .subkey i) ∨ ∃ i, r = .trace i)) ∨
        (∃ w, l = .outWord w) →
      s.busy = true →
      busRead s offset = (.okData (Config.freeWord s.draws), { s with draws := s.draws + 1 })) ∧
    (s.busy = false → busRead s offset = (.okData (readLoc s l), s)) ∧
    (l = .reg .status ∨ l = .reg .cmd ∨ l = .reg .keyLen ∨ l = .reg .inLen ∨ (∃ i, l = .reg (.op i)) ∨
        (∃ w, l = .keyWord w) ∨ (∃ w, l = .inWord w) →
      busRead s offset = (.okData (readLoc s l), s))

/-- R43: no read has a side effect on the core, and while idle two reads with nothing between them give the same value. -/
def Obligations.ReadsHaveNoSideEffect : Prop :=
  ∀ (s : State) (offset : Nat), CoreKept s (busRead s offset).2 ∧
    (s.busy = false → busRead (busRead s offset).2 offset = busRead s offset)

/-- R42, R64: while idle, with legal parameters, a write to each writable location answers OK and stores; a write to CMD also
issues the command, whatever word it is; no other register or byte changes. -/
def Obligations.BusWritesStore : Prop :=
  ∀ (s : State) (v : Word), s.params.Legal → s.busy = false →
    busWrite s 0x000 v = (.ok, { s with cmd := v, busy := true, doneBit := false, err := 0 }) ∧
    busWrite s 0x008 v = (.ok, { s with keyLen := v }) ∧
    busWrite s 0x00C v = (.ok, { s with inLen := v }) ∧
    (∀ i : Fin 8, busWrite s (0x020 + 4 * i.val) v = (.ok, { s with op := s.op.set i v })) ∧
    (∀ w < s.params.keyBufBytes / 4, ∃ t, busWrite s (0x100 + 4 * w) v = (.ok, t) ∧ t = { s with mem := t.mem } ∧
      (∀ i < 4, t.readByte (0x100 + 4 * w + i) = v.extractLsb' (8 * i) 8) ∧
      ∀ a, a < 0x100 + 4 * w ∨ 0x100 + 4 * w + 4 ≤ a → t.readByte a = s.readByte a) ∧
    (∀ w < s.params.inBufBytes / 4, ∃ t, busWrite s (0x400 + 4 * w) v = (.ok, t) ∧ t = { s with mem := t.mem } ∧
      (∀ i < 4, t.readByte (0x400 + 4 * w + i) = v.extractLsb' (8 * i) 8) ∧
      ∀ a, a < 0x400 + 4 * w ∨ 0x400 + 4 * w + 4 ≤ a → t.readByte a = s.readByte a)

/-- R38: a KEY_BUF or IN_BUF word is its four bytes, the first in bits [7:0]; so a word written reads back. -/
def Obligations.BufferWordsAreLittleEndian : Prop :=
  (∀ (s : State) (w : Nat),
    readLoc s (.keyWord w) = s.readByte (0x100 + 4 * w + 3) ++ s.readByte (0x100 + 4 * w + 2) ++
      s.readByte (0x100 + 4 * w + 1) ++ s.readByte (0x100 + 4 * w) ∧
    readLoc s (.inWord w) = s.readByte (0x400 + 4 * w + 3) ++ s.readByte (0x400 + 4 * w + 2) ++
      s.readByte (0x400 + 4 * w + 1) ++ s.readByte (0x400 + 4 * w)) ∧
  ∀ (s : State) (w : Nat) (v : Word),
    readLoc (writeLoc s (.keyWord w) v) (.keyWord w) = v ∧ readLoc (writeLoc s (.inWord w) v) (.inWord w) = v

/-- R22 with R19 to R21: STATUS has BUSY in bit 0, DONE in bit 1, ERR in bits 7:4 and zeros elsewhere, and a write to it is a
bus error. -/
def Obligations.StatusWordLayout : Prop :=
  (∀ s : State, (statusWord s).getLsbD 0 = s.busy ∧ (statusWord s).getLsbD 1 = s.doneBit ∧
    (statusWord s).extractLsb' 4 4 = s.err ∧ (statusWord s).extractLsb' 2 2 = 0 ∧
    (statusWord s).extractLsb' 8 24 = 0) ∧
  ∀ (s : State) (v : Word), busWrite s 0x004 v = (.err, s)

/-! ### Reset (10_state.md R35; 70_reset_and_hazards.md) -/

/-- R35, R117: after reset every register is 0 and no command is pending; no buffer byte has been written, so each holds a
free value. -/
def Obligations.ResetStateIsIdleAndZero : Prop :=
  State.reset.cmd = 0 ∧ statusWord State.reset = 0 ∧ State.reset.busy = false ∧ State.reset.keyLen = 0 ∧
  State.reset.inLen = 0 ∧ State.reset.outCount = 0 ∧ State.reset.result = 0 ∧
  (∀ i : Fin 8, State.reset.op[i] = 0 ∧ State.reset.trace[i] = 0) ∧ (∀ i : Fin 4, State.reset.subkey[i] = 0) ∧
  ∀ a, State.reset.readByte a = Config.freeByte State.reset.epoch a

/-- R115, R116: a reset, at any moment, puts 0 into every register, abandons a pending command, and leaves every buffer byte a
free value drawn anew. The parameters and the agents outside the core are untouched (log 11). -/
def Obligations.ResetTurnClearsTheCore : Prop :=
  ∀ s : State, s.mover = some .reset → ∃ t, step s = .next t ∧
    t.cmd = 0 ∧ statusWord t = 0 ∧ t.busy = false ∧ t.keyLen = 0 ∧ t.inLen = 0 ∧ t.outCount = 0 ∧ t.result = 0 ∧
    (∀ i : Fin 8, t.op[i] = 0 ∧ t.trace[i] = 0) ∧ (∀ i : Fin 4, t.subkey[i] = 0) ∧
    (∀ a, t.readByte a = Config.freeByte (s.epoch + 1) a) ∧
    t.params = s.params ∧ t.draws = s.draws ∧ t.turns = s.turns.tail ∧ t.prog = s.prog ∧ t.hostPc = s.hostPc ∧
    t.names = s.names ∧ t.responses = s.responses

/-! ### The invariant -/

/-- The machine's invariant holds after reset. -/
def Obligations.ResetMeetsInvariant : Prop := Inv State.reset

/-- The machine's invariant is kept by every step, of whichever agent, from every state that meets it: the parameters stay
legal; BUSY and DONE are never 1 together, a code stands in ERR only when DONE = 1, and is at most 4 (R20, R21); the buffers
keep their canonical form and their bounds (R46); each SUBKEY is in 0..255 (R31) and OUT_COUNT in 0..OUT_BUF_WORDS (R25). -/
def Obligations.EveryStepKeepsInvariant : Prop :=
  ∀ s t : State, Inv s → step s = .next t → Inv t
end

