-- ==== Sys2Proof/Laws/State.lean ====
section
/-! SUPPORT. What each update of State leaves in each field: one lemma for each field and update, true by rfl. -/

namespace Sys2Proof.Machine

section
variable (s : State) (v : Word)
@[simp] theorem State.withCmd_params : (s.withCmd v).params = s.params := rfl
@[simp] theorem State.withCmd_cmd : (s.withCmd v).cmd = v := rfl
@[simp] theorem State.withCmd_busy : (s.withCmd v).busy = s.busy := rfl
@[simp] theorem State.withCmd_doneBit : (s.withCmd v).doneBit = s.doneBit := rfl
@[simp] theorem State.withCmd_err : (s.withCmd v).err = s.err := rfl
@[simp] theorem State.withCmd_keyLen : (s.withCmd v).keyLen = s.keyLen := rfl
@[simp] theorem State.withCmd_inLen : (s.withCmd v).inLen = s.inLen := rfl
@[simp] theorem State.withCmd_outCount : (s.withCmd v).outCount = s.outCount := rfl
@[simp] theorem State.withCmd_op : (s.withCmd v).op = s.op := rfl
@[simp] theorem State.withCmd_result : (s.withCmd v).result = s.result := rfl
@[simp] theorem State.withCmd_subkey : (s.withCmd v).subkey = s.subkey := rfl
@[simp] theorem State.withCmd_trace : (s.withCmd v).trace = s.trace := rfl
@[simp] theorem State.withCmd_mem : (s.withCmd v).mem = s.mem := rfl
@[simp] theorem State.withCmd_epoch : (s.withCmd v).epoch = s.epoch := rfl
@[simp] theorem State.withCmd_draws : (s.withCmd v).draws = s.draws := rfl
@[simp] theorem State.withCmd_turns : (s.withCmd v).turns = s.turns := rfl
@[simp] theorem State.withCmd_prog : (s.withCmd v).prog = s.prog := rfl
@[simp] theorem State.withCmd_hostPc : (s.withCmd v).hostPc = s.hostPc := rfl
@[simp] theorem State.withCmd_names : (s.withCmd v).names = s.names := rfl
@[simp] theorem State.withCmd_responses : (s.withCmd v).responses = s.responses := rfl
end

section
variable (s : State) (v : Word)
@[simp] theorem State.withKeyLen_params : (s.withKeyLen v).params = s.params := rfl
@[simp] theorem State.withKeyLen_cmd : (s.withKeyLen v).cmd = s.cmd := rfl
@[simp] theorem State.withKeyLen_busy : (s.withKeyLen v).busy = s.busy := rfl
@[simp] theorem State.withKeyLen_doneBit : (s.withKeyLen v).doneBit = s.doneBit := rfl
@[simp] theorem State.withKeyLen_err : (s.withKeyLen v).err = s.err := rfl
@[simp] theorem State.withKeyLen_keyLen : (s.withKeyLen v).keyLen = v := rfl
@[simp] theorem State.withKeyLen_inLen : (s.withKeyLen v).inLen = s.inLen := rfl
@[simp] theorem State.withKeyLen_outCount : (s.withKeyLen v).outCount = s.outCount := rfl
@[simp] theorem State.withKeyLen_op : (s.withKeyLen v).op = s.op := rfl
@[simp] theorem State.withKeyLen_result : (s.withKeyLen v).result = s.result := rfl
@[simp] theorem State.withKeyLen_subkey : (s.withKeyLen v).subkey = s.subkey := rfl
@[simp] theorem State.withKeyLen_trace : (s.withKeyLen v).trace = s.trace := rfl
@[simp] theorem State.withKeyLen_mem : (s.withKeyLen v).mem = s.mem := rfl
@[simp] theorem State.withKeyLen_epoch : (s.withKeyLen v).epoch = s.epoch := rfl
@[simp] theorem State.withKeyLen_draws : (s.withKeyLen v).draws = s.draws := rfl
@[simp] theorem State.withKeyLen_turns : (s.withKeyLen v).turns = s.turns := rfl
@[simp] theorem State.withKeyLen_prog : (s.withKeyLen v).prog = s.prog := rfl
@[simp] theorem State.withKeyLen_hostPc : (s.withKeyLen v).hostPc = s.hostPc := rfl
@[simp] theorem State.withKeyLen_names : (s.withKeyLen v).names = s.names := rfl
@[simp] theorem State.withKeyLen_responses : (s.withKeyLen v).responses = s.responses := rfl
end

section
variable (s : State) (v : Word)
@[simp] theorem State.withInLen_params : (s.withInLen v).params = s.params := rfl
@[simp] theorem State.withInLen_cmd : (s.withInLen v).cmd = s.cmd := rfl
@[simp] theorem State.withInLen_busy : (s.withInLen v).busy = s.busy := rfl
@[simp] theorem State.withInLen_doneBit : (s.withInLen v).doneBit = s.doneBit := rfl
@[simp] theorem State.withInLen_err : (s.withInLen v).err = s.err := rfl
@[simp] theorem State.withInLen_keyLen : (s.withInLen v).keyLen = s.keyLen := rfl
@[simp] theorem State.withInLen_inLen : (s.withInLen v).inLen = v := rfl
@[simp] theorem State.withInLen_outCount : (s.withInLen v).outCount = s.outCount := rfl
@[simp] theorem State.withInLen_op : (s.withInLen v).op = s.op := rfl
@[simp] theorem State.withInLen_result : (s.withInLen v).result = s.result := rfl
@[simp] theorem State.withInLen_subkey : (s.withInLen v).subkey = s.subkey := rfl
@[simp] theorem State.withInLen_trace : (s.withInLen v).trace = s.trace := rfl
@[simp] theorem State.withInLen_mem : (s.withInLen v).mem = s.mem := rfl
@[simp] theorem State.withInLen_epoch : (s.withInLen v).epoch = s.epoch := rfl
@[simp] theorem State.withInLen_draws : (s.withInLen v).draws = s.draws := rfl
@[simp] theorem State.withInLen_turns : (s.withInLen v).turns = s.turns := rfl
@[simp] theorem State.withInLen_prog : (s.withInLen v).prog = s.prog := rfl
@[simp] theorem State.withInLen_hostPc : (s.withInLen v).hostPc = s.hostPc := rfl
@[simp] theorem State.withInLen_names : (s.withInLen v).names = s.names := rfl
@[simp] theorem State.withInLen_responses : (s.withInLen v).responses = s.responses := rfl
end

section
variable (s : State) (v : Word)
@[simp] theorem State.withOutCount_params : (s.withOutCount v).params = s.params := rfl
@[simp] theorem State.withOutCount_cmd : (s.withOutCount v).cmd = s.cmd := rfl
@[simp] theorem State.withOutCount_busy : (s.withOutCount v).busy = s.busy := rfl
@[simp] theorem State.withOutCount_doneBit : (s.withOutCount v).doneBit = s.doneBit := rfl
@[simp] theorem State.withOutCount_err : (s.withOutCount v).err = s.err := rfl
@[simp] theorem State.withOutCount_keyLen : (s.withOutCount v).keyLen = s.keyLen := rfl
@[simp] theorem State.withOutCount_inLen : (s.withOutCount v).inLen = s.inLen := rfl
@[simp] theorem State.withOutCount_outCount : (s.withOutCount v).outCount = v := rfl
@[simp] theorem State.withOutCount_op : (s.withOutCount v).op = s.op := rfl
@[simp] theorem State.withOutCount_result : (s.withOutCount v).result = s.result := rfl
@[simp] theorem State.withOutCount_subkey : (s.withOutCount v).subkey = s.subkey := rfl
@[simp] theorem State.withOutCount_trace : (s.withOutCount v).trace = s.trace := rfl
@[simp] theorem State.withOutCount_mem : (s.withOutCount v).mem = s.mem := rfl
@[simp] theorem State.withOutCount_epoch : (s.withOutCount v).epoch = s.epoch := rfl
@[simp] theorem State.withOutCount_draws : (s.withOutCount v).draws = s.draws := rfl
@[simp] theorem State.withOutCount_turns : (s.withOutCount v).turns = s.turns := rfl
@[simp] theorem State.withOutCount_prog : (s.withOutCount v).prog = s.prog := rfl
@[simp] theorem State.withOutCount_hostPc : (s.withOutCount v).hostPc = s.hostPc := rfl
@[simp] theorem State.withOutCount_names : (s.withOutCount v).names = s.names := rfl
@[simp] theorem State.withOutCount_responses : (s.withOutCount v).responses = s.responses := rfl
end

section
variable (s : State) (i : Fin 8) (v : Word)
@[simp] theorem State.withOp_params : (s.withOp i v).params = s.params := rfl
@[simp] theorem State.withOp_cmd : (s.withOp i v).cmd = s.cmd := rfl
@[simp] theorem State.withOp_busy : (s.withOp i v).busy = s.busy := rfl
@[simp] theorem State.withOp_doneBit : (s.withOp i v).doneBit = s.doneBit := rfl
@[simp] theorem State.withOp_err : (s.withOp i v).err = s.err := rfl
@[simp] theorem State.withOp_keyLen : (s.withOp i v).keyLen = s.keyLen := rfl
@[simp] theorem State.withOp_inLen : (s.withOp i v).inLen = s.inLen := rfl
@[simp] theorem State.withOp_outCount : (s.withOp i v).outCount = s.outCount := rfl
@[simp] theorem State.withOp_op : (s.withOp i v).op = s.op.set i v := rfl
@[simp] theorem State.withOp_result : (s.withOp i v).result = s.result := rfl
@[simp] theorem State.withOp_subkey : (s.withOp i v).subkey = s.subkey := rfl
@[simp] theorem State.withOp_trace : (s.withOp i v).trace = s.trace := rfl
@[simp] theorem State.withOp_mem : (s.withOp i v).mem = s.mem := rfl
@[simp] theorem State.withOp_epoch : (s.withOp i v).epoch = s.epoch := rfl
@[simp] theorem State.withOp_draws : (s.withOp i v).draws = s.draws := rfl
@[simp] theorem State.withOp_turns : (s.withOp i v).turns = s.turns := rfl
@[simp] theorem State.withOp_prog : (s.withOp i v).prog = s.prog := rfl
@[simp] theorem State.withOp_hostPc : (s.withOp i v).hostPc = s.hostPc := rfl
@[simp] theorem State.withOp_names : (s.withOp i v).names = s.names := rfl
@[simp] theorem State.withOp_responses : (s.withOp i v).responses = s.responses := rfl
end

section
variable (s : State) (v : Word)
@[simp] theorem State.withResult_params : (s.withResult v).params = s.params := rfl
@[simp] theorem State.withResult_cmd : (s.withResult v).cmd = s.cmd := rfl
@[simp] theorem State.withResult_busy : (s.withResult v).busy = s.busy := rfl
@[simp] theorem State.withResult_doneBit : (s.withResult v).doneBit = s.doneBit := rfl
@[simp] theorem State.withResult_err : (s.withResult v).err = s.err := rfl
@[simp] theorem State.withResult_keyLen : (s.withResult v).keyLen = s.keyLen := rfl
@[simp] theorem State.withResult_inLen : (s.withResult v).inLen = s.inLen := rfl
@[simp] theorem State.withResult_outCount : (s.withResult v).outCount = s.outCount := rfl
@[simp] theorem State.withResult_op : (s.withResult v).op = s.op := rfl
@[simp] theorem State.withResult_result : (s.withResult v).result = v := rfl
@[simp] theorem State.withResult_subkey : (s.withResult v).subkey = s.subkey := rfl
@[simp] theorem State.withResult_trace : (s.withResult v).trace = s.trace := rfl
@[simp] theorem State.withResult_mem : (s.withResult v).mem = s.mem := rfl
@[simp] theorem State.withResult_epoch : (s.withResult v).epoch = s.epoch := rfl
@[simp] theorem State.withResult_draws : (s.withResult v).draws = s.draws := rfl
@[simp] theorem State.withResult_turns : (s.withResult v).turns = s.turns := rfl
@[simp] theorem State.withResult_prog : (s.withResult v).prog = s.prog := rfl
@[simp] theorem State.withResult_hostPc : (s.withResult v).hostPc = s.hostPc := rfl
@[simp] theorem State.withResult_names : (s.withResult v).names = s.names := rfl
@[simp] theorem State.withResult_responses : (s.withResult v).responses = s.responses := rfl
end

section
variable (s : State) (z : Vector Word 4)
@[simp] theorem State.withSubkey_params : (s.withSubkey z).params = s.params := rfl
@[simp] theorem State.withSubkey_cmd : (s.withSubkey z).cmd = s.cmd := rfl
@[simp] theorem State.withSubkey_busy : (s.withSubkey z).busy = s.busy := rfl
@[simp] theorem State.withSubkey_doneBit : (s.withSubkey z).doneBit = s.doneBit := rfl
@[simp] theorem State.withSubkey_err : (s.withSubkey z).err = s.err := rfl
@[simp] theorem State.withSubkey_keyLen : (s.withSubkey z).keyLen = s.keyLen := rfl
@[simp] theorem State.withSubkey_inLen : (s.withSubkey z).inLen = s.inLen := rfl
@[simp] theorem State.withSubkey_outCount : (s.withSubkey z).outCount = s.outCount := rfl
@[simp] theorem State.withSubkey_op : (s.withSubkey z).op = s.op := rfl
@[simp] theorem State.withSubkey_result : (s.withSubkey z).result = s.result := rfl
@[simp] theorem State.withSubkey_subkey : (s.withSubkey z).subkey = z := rfl
@[simp] theorem State.withSubkey_trace : (s.withSubkey z).trace = s.trace := rfl
@[simp] theorem State.withSubkey_mem : (s.withSubkey z).mem = s.mem := rfl
@[simp] theorem State.withSubkey_epoch : (s.withSubkey z).epoch = s.epoch := rfl
@[simp] theorem State.withSubkey_draws : (s.withSubkey z).draws = s.draws := rfl
@[simp] theorem State.withSubkey_turns : (s.withSubkey z).turns = s.turns := rfl
@[simp] theorem State.withSubkey_prog : (s.withSubkey z).prog = s.prog := rfl
@[simp] theorem State.withSubkey_hostPc : (s.withSubkey z).hostPc = s.hostPc := rfl
@[simp] theorem State.withSubkey_names : (s.withSubkey z).names = s.names := rfl
@[simp] theorem State.withSubkey_responses : (s.withSubkey z).responses = s.responses := rfl
end

section
variable (s : State) (t : Vector Word 8)
@[simp] theorem State.withTrace_params : (s.withTrace t).params = s.params := rfl
@[simp] theorem State.withTrace_cmd : (s.withTrace t).cmd = s.cmd := rfl
@[simp] theorem State.withTrace_busy : (s.withTrace t).busy = s.busy := rfl
@[simp] theorem State.withTrace_doneBit : (s.withTrace t).doneBit = s.doneBit := rfl
@[simp] theorem State.withTrace_err : (s.withTrace t).err = s.err := rfl
@[simp] theorem State.withTrace_keyLen : (s.withTrace t).keyLen = s.keyLen := rfl
@[simp] theorem State.withTrace_inLen : (s.withTrace t).inLen = s.inLen := rfl
@[simp] theorem State.withTrace_outCount : (s.withTrace t).outCount = s.outCount := rfl
@[simp] theorem State.withTrace_op : (s.withTrace t).op = s.op := rfl
@[simp] theorem State.withTrace_result : (s.withTrace t).result = s.result := rfl
@[simp] theorem State.withTrace_subkey : (s.withTrace t).subkey = s.subkey := rfl
@[simp] theorem State.withTrace_trace : (s.withTrace t).trace = t := rfl
@[simp] theorem State.withTrace_mem : (s.withTrace t).mem = s.mem := rfl
@[simp] theorem State.withTrace_epoch : (s.withTrace t).epoch = s.epoch := rfl
@[simp] theorem State.withTrace_draws : (s.withTrace t).draws = s.draws := rfl
@[simp] theorem State.withTrace_turns : (s.withTrace t).turns = s.turns := rfl
@[simp] theorem State.withTrace_prog : (s.withTrace t).prog = s.prog := rfl
@[simp] theorem State.withTrace_hostPc : (s.withTrace t).hostPc = s.hostPc := rfl
@[simp] theorem State.withTrace_names : (s.withTrace t).names = s.names := rfl
@[simp] theorem State.withTrace_responses : (s.withTrace t).responses = s.responses := rfl
end

section
variable (s : State) (m : Memory)
@[simp] theorem State.withMem_params : (s.withMem m).params = s.params := rfl
@[simp] theorem State.withMem_cmd : (s.withMem m).cmd = s.cmd := rfl
@[simp] theorem State.withMem_busy : (s.withMem m).busy = s.busy := rfl
@[simp] theorem State.withMem_doneBit : (s.withMem m).doneBit = s.doneBit := rfl
@[simp] theorem State.withMem_err : (s.withMem m).err = s.err := rfl
@[simp] theorem State.withMem_keyLen : (s.withMem m).keyLen = s.keyLen := rfl
@[simp] theorem State.withMem_inLen : (s.withMem m).inLen = s.inLen := rfl
@[simp] theorem State.withMem_outCount : (s.withMem m).outCount = s.outCount := rfl
@[simp] theorem State.withMem_op : (s.withMem m).op = s.op := rfl
@[simp] theorem State.withMem_result : (s.withMem m).result = s.result := rfl
@[simp] theorem State.withMem_subkey : (s.withMem m).subkey = s.subkey := rfl
@[simp] theorem State.withMem_trace : (s.withMem m).trace = s.trace := rfl
@[simp] theorem State.withMem_mem : (s.withMem m).mem = m := rfl
@[simp] theorem State.withMem_epoch : (s.withMem m).epoch = s.epoch := rfl
@[simp] theorem State.withMem_draws : (s.withMem m).draws = s.draws := rfl
@[simp] theorem State.withMem_turns : (s.withMem m).turns = s.turns := rfl
@[simp] theorem State.withMem_prog : (s.withMem m).prog = s.prog := rfl
@[simp] theorem State.withMem_hostPc : (s.withMem m).hostPc = s.hostPc := rfl
@[simp] theorem State.withMem_names : (s.withMem m).names = s.names := rfl
@[simp] theorem State.withMem_responses : (s.withMem m).responses = s.responses := rfl
end

section
variable (s : State) (b d : Bool) (e : BitVec 4)
@[simp] theorem State.withStatus_params : (s.withStatus b d e).params = s.params := rfl
@[simp] theorem State.withStatus_cmd : (s.withStatus b d e).cmd = s.cmd := rfl
@[simp] theorem State.withStatus_busy : (s.withStatus b d e).busy = b := rfl
@[simp] theorem State.withStatus_doneBit : (s.withStatus b d e).doneBit = d := rfl
@[simp] theorem State.withStatus_err : (s.withStatus b d e).err = e := rfl
@[simp] theorem State.withStatus_keyLen : (s.withStatus b d e).keyLen = s.keyLen := rfl
@[simp] theorem State.withStatus_inLen : (s.withStatus b d e).inLen = s.inLen := rfl
@[simp] theorem State.withStatus_outCount : (s.withStatus b d e).outCount = s.outCount := rfl
@[simp] theorem State.withStatus_op : (s.withStatus b d e).op = s.op := rfl
@[simp] theorem State.withStatus_result : (s.withStatus b d e).result = s.result := rfl
@[simp] theorem State.withStatus_subkey : (s.withStatus b d e).subkey = s.subkey := rfl
@[simp] theorem State.withStatus_trace : (s.withStatus b d e).trace = s.trace := rfl
@[simp] theorem State.withStatus_mem : (s.withStatus b d e).mem = s.mem := rfl
@[simp] theorem State.withStatus_epoch : (s.withStatus b d e).epoch = s.epoch := rfl
@[simp] theorem State.withStatus_draws : (s.withStatus b d e).draws = s.draws := rfl
@[simp] theorem State.withStatus_turns : (s.withStatus b d e).turns = s.turns := rfl
@[simp] theorem State.withStatus_prog : (s.withStatus b d e).prog = s.prog := rfl
@[simp] theorem State.withStatus_hostPc : (s.withStatus b d e).hostPc = s.hostPc := rfl
@[simp] theorem State.withStatus_names : (s.withStatus b d e).names = s.names := rfl
@[simp] theorem State.withStatus_responses : (s.withStatus b d e).responses = s.responses := rfl
end

section
variable (s : State)
@[simp] theorem State.drawn_params : s.drawn.params = s.params := rfl
@[simp] theorem State.drawn_cmd : s.drawn.cmd = s.cmd := rfl
@[simp] theorem State.drawn_busy : s.drawn.busy = s.busy := rfl
@[simp] theorem State.drawn_doneBit : s.drawn.doneBit = s.doneBit := rfl
@[simp] theorem State.drawn_err : s.drawn.err = s.err := rfl
@[simp] theorem State.drawn_keyLen : s.drawn.keyLen = s.keyLen := rfl
@[simp] theorem State.drawn_inLen : s.drawn.inLen = s.inLen := rfl
@[simp] theorem State.drawn_outCount : s.drawn.outCount = s.outCount := rfl
@[simp] theorem State.drawn_op : s.drawn.op = s.op := rfl
@[simp] theorem State.drawn_result : s.drawn.result = s.result := rfl
@[simp] theorem State.drawn_subkey : s.drawn.subkey = s.subkey := rfl
@[simp] theorem State.drawn_trace : s.drawn.trace = s.trace := rfl
@[simp] theorem State.drawn_mem : s.drawn.mem = s.mem := rfl
@[simp] theorem State.drawn_epoch : s.drawn.epoch = s.epoch := rfl
@[simp] theorem State.drawn_draws : s.drawn.draws = s.draws + 1 := rfl
@[simp] theorem State.drawn_turns : s.drawn.turns = s.turns := rfl
@[simp] theorem State.drawn_prog : s.drawn.prog = s.prog := rfl
@[simp] theorem State.drawn_hostPc : s.drawn.hostPc = s.hostPc := rfl
@[simp] theorem State.drawn_names : s.drawn.names = s.names := rfl
@[simp] theorem State.drawn_responses : s.drawn.responses = s.responses := rfl
end

section
variable (s : State) (t : List Turn)
@[simp] theorem State.withTurns_params : (s.withTurns t).params = s.params := rfl
@[simp] theorem State.withTurns_cmd : (s.withTurns t).cmd = s.cmd := rfl
@[simp] theorem State.withTurns_busy : (s.withTurns t).busy = s.busy := rfl
@[simp] theorem State.withTurns_doneBit : (s.withTurns t).doneBit = s.doneBit := rfl
@[simp] theorem State.withTurns_err : (s.withTurns t).err = s.err := rfl
@[simp] theorem State.withTurns_keyLen : (s.withTurns t).keyLen = s.keyLen := rfl
@[simp] theorem State.withTurns_inLen : (s.withTurns t).inLen = s.inLen := rfl
@[simp] theorem State.withTurns_outCount : (s.withTurns t).outCount = s.outCount := rfl
@[simp] theorem State.withTurns_op : (s.withTurns t).op = s.op := rfl
@[simp] theorem State.withTurns_result : (s.withTurns t).result = s.result := rfl
@[simp] theorem State.withTurns_subkey : (s.withTurns t).subkey = s.subkey := rfl
@[simp] theorem State.withTurns_trace : (s.withTurns t).trace = s.trace := rfl
@[simp] theorem State.withTurns_mem : (s.withTurns t).mem = s.mem := rfl
@[simp] theorem State.withTurns_epoch : (s.withTurns t).epoch = s.epoch := rfl
@[simp] theorem State.withTurns_draws : (s.withTurns t).draws = s.draws := rfl
@[simp] theorem State.withTurns_turns : (s.withTurns t).turns = t := rfl
@[simp] theorem State.withTurns_prog : (s.withTurns t).prog = s.prog := rfl
@[simp] theorem State.withTurns_hostPc : (s.withTurns t).hostPc = s.hostPc := rfl
@[simp] theorem State.withTurns_names : (s.withTurns t).names = s.names := rfl
@[simp] theorem State.withTurns_responses : (s.withTurns t).responses = s.responses := rfl
end

section
variable (s : State) (pc : Nat)
@[simp] theorem State.withHostPc_params : (s.withHostPc pc).params = s.params := rfl
@[simp] theorem State.withHostPc_cmd : (s.withHostPc pc).cmd = s.cmd := rfl
@[simp] theorem State.withHostPc_busy : (s.withHostPc pc).busy = s.busy := rfl
@[simp] theorem State.withHostPc_doneBit : (s.withHostPc pc).doneBit = s.doneBit := rfl
@[simp] theorem State.withHostPc_err : (s.withHostPc pc).err = s.err := rfl
@[simp] theorem State.withHostPc_keyLen : (s.withHostPc pc).keyLen = s.keyLen := rfl
@[simp] theorem State.withHostPc_inLen : (s.withHostPc pc).inLen = s.inLen := rfl
@[simp] theorem State.withHostPc_outCount : (s.withHostPc pc).outCount = s.outCount := rfl
@[simp] theorem State.withHostPc_op : (s.withHostPc pc).op = s.op := rfl
@[simp] theorem State.withHostPc_result : (s.withHostPc pc).result = s.result := rfl
@[simp] theorem State.withHostPc_subkey : (s.withHostPc pc).subkey = s.subkey := rfl
@[simp] theorem State.withHostPc_trace : (s.withHostPc pc).trace = s.trace := rfl
@[simp] theorem State.withHostPc_mem : (s.withHostPc pc).mem = s.mem := rfl
@[simp] theorem State.withHostPc_epoch : (s.withHostPc pc).epoch = s.epoch := rfl
@[simp] theorem State.withHostPc_draws : (s.withHostPc pc).draws = s.draws := rfl
@[simp] theorem State.withHostPc_turns : (s.withHostPc pc).turns = s.turns := rfl
@[simp] theorem State.withHostPc_prog : (s.withHostPc pc).prog = s.prog := rfl
@[simp] theorem State.withHostPc_hostPc : (s.withHostPc pc).hostPc = pc := rfl
@[simp] theorem State.withHostPc_names : (s.withHostPc pc).names = s.names := rfl
@[simp] theorem State.withHostPc_responses : (s.withHostPc pc).responses = s.responses := rfl
end

section
variable (s : State) (n : Nat) (v : Word)
@[simp] theorem State.withName_params : (s.withName n v).params = s.params := rfl
@[simp] theorem State.withName_cmd : (s.withName n v).cmd = s.cmd := rfl
@[simp] theorem State.withName_busy : (s.withName n v).busy = s.busy := rfl
@[simp] theorem State.withName_doneBit : (s.withName n v).doneBit = s.doneBit := rfl
@[simp] theorem State.withName_err : (s.withName n v).err = s.err := rfl
@[simp] theorem State.withName_keyLen : (s.withName n v).keyLen = s.keyLen := rfl
@[simp] theorem State.withName_inLen : (s.withName n v).inLen = s.inLen := rfl
@[simp] theorem State.withName_outCount : (s.withName n v).outCount = s.outCount := rfl
@[simp] theorem State.withName_op : (s.withName n v).op = s.op := rfl
@[simp] theorem State.withName_result : (s.withName n v).result = s.result := rfl
@[simp] theorem State.withName_subkey : (s.withName n v).subkey = s.subkey := rfl
@[simp] theorem State.withName_trace : (s.withName n v).trace = s.trace := rfl
@[simp] theorem State.withName_mem : (s.withName n v).mem = s.mem := rfl
@[simp] theorem State.withName_epoch : (s.withName n v).epoch = s.epoch := rfl
@[simp] theorem State.withName_draws : (s.withName n v).draws = s.draws := rfl
@[simp] theorem State.withName_turns : (s.withName n v).turns = s.turns := rfl
@[simp] theorem State.withName_prog : (s.withName n v).prog = s.prog := rfl
@[simp] theorem State.withName_hostPc : (s.withName n v).hostPc = s.hostPc := rfl
@[simp] theorem State.withName_names : (s.withName n v).names = assocSet s.names n v := rfl
@[simp] theorem State.withName_responses : (s.withName n v).responses = s.responses := rfl
end

section
variable (s : State) (r : BusResp)
@[simp] theorem State.responded_params : (s.responded r).params = s.params := rfl
@[simp] theorem State.responded_cmd : (s.responded r).cmd = s.cmd := rfl
@[simp] theorem State.responded_busy : (s.responded r).busy = s.busy := rfl
@[simp] theorem State.responded_doneBit : (s.responded r).doneBit = s.doneBit := rfl
@[simp] theorem State.responded_err : (s.responded r).err = s.err := rfl
@[simp] theorem State.responded_keyLen : (s.responded r).keyLen = s.keyLen := rfl
@[simp] theorem State.responded_inLen : (s.responded r).inLen = s.inLen := rfl
@[simp] theorem State.responded_outCount : (s.responded r).outCount = s.outCount := rfl
@[simp] theorem State.responded_op : (s.responded r).op = s.op := rfl
@[simp] theorem State.responded_result : (s.responded r).result = s.result := rfl
@[simp] theorem State.responded_subkey : (s.responded r).subkey = s.subkey := rfl
@[simp] theorem State.responded_trace : (s.responded r).trace = s.trace := rfl
@[simp] theorem State.responded_mem : (s.responded r).mem = s.mem := rfl
@[simp] theorem State.responded_epoch : (s.responded r).epoch = s.epoch := rfl
@[simp] theorem State.responded_draws : (s.responded r).draws = s.draws := rfl
@[simp] theorem State.responded_turns : (s.responded r).turns = s.turns := rfl
@[simp] theorem State.responded_prog : (s.responded r).prog = s.prog := rfl
@[simp] theorem State.responded_hostPc : (s.responded r).hostPc = s.hostPc := rfl
@[simp] theorem State.responded_names : (s.responded r).names = s.names := rfl
@[simp] theorem State.responded_responses : (s.responded r).responses = r :: s.responses := rfl
end

section
variable (s : State) (a : Nat) (b : Byte)
@[simp] theorem State.writeByte_params : (s.writeByte a b).params = s.params := rfl
@[simp] theorem State.writeByte_cmd : (s.writeByte a b).cmd = s.cmd := rfl
@[simp] theorem State.writeByte_busy : (s.writeByte a b).busy = s.busy := rfl
@[simp] theorem State.writeByte_doneBit : (s.writeByte a b).doneBit = s.doneBit := rfl
@[simp] theorem State.writeByte_err : (s.writeByte a b).err = s.err := rfl
@[simp] theorem State.writeByte_keyLen : (s.writeByte a b).keyLen = s.keyLen := rfl
@[simp] theorem State.writeByte_inLen : (s.writeByte a b).inLen = s.inLen := rfl
@[simp] theorem State.writeByte_outCount : (s.writeByte a b).outCount = s.outCount := rfl
@[simp] theorem State.writeByte_op : (s.writeByte a b).op = s.op := rfl
@[simp] theorem State.writeByte_result : (s.writeByte a b).result = s.result := rfl
@[simp] theorem State.writeByte_subkey : (s.writeByte a b).subkey = s.subkey := rfl
@[simp] theorem State.writeByte_trace : (s.writeByte a b).trace = s.trace := rfl
@[simp] theorem State.writeByte_mem : (s.writeByte a b).mem = assocSet s.mem a b := rfl
@[simp] theorem State.writeByte_epoch : (s.writeByte a b).epoch = s.epoch := rfl
@[simp] theorem State.writeByte_draws : (s.writeByte a b).draws = s.draws := rfl
@[simp] theorem State.writeByte_turns : (s.writeByte a b).turns = s.turns := rfl
@[simp] theorem State.writeByte_prog : (s.writeByte a b).prog = s.prog := rfl
@[simp] theorem State.writeByte_hostPc : (s.writeByte a b).hostPc = s.hostPc := rfl
@[simp] theorem State.writeByte_names : (s.writeByte a b).names = s.names := rfl
@[simp] theorem State.writeByte_responses : (s.writeByte a b).responses = s.responses := rfl
end

section
variable (s : State) (w : Word)
@[simp] theorem State.issue_params : (s.issue w).params = s.params := rfl
@[simp] theorem State.issue_cmd : (s.issue w).cmd = w := rfl
@[simp] theorem State.issue_busy : (s.issue w).busy = true := rfl
@[simp] theorem State.issue_doneBit : (s.issue w).doneBit = false := rfl
@[simp] theorem State.issue_err : (s.issue w).err = 0 := rfl
@[simp] theorem State.issue_keyLen : (s.issue w).keyLen = s.keyLen := rfl
@[simp] theorem State.issue_inLen : (s.issue w).inLen = s.inLen := rfl
@[simp] theorem State.issue_outCount : (s.issue w).outCount = s.outCount := rfl
@[simp] theorem State.issue_op : (s.issue w).op = s.op := rfl
@[simp] theorem State.issue_result : (s.issue w).result = s.result := rfl
@[simp] theorem State.issue_subkey : (s.issue w).subkey = s.subkey := rfl
@[simp] theorem State.issue_trace : (s.issue w).trace = s.trace := rfl
@[simp] theorem State.issue_mem : (s.issue w).mem = s.mem := rfl
@[simp] theorem State.issue_epoch : (s.issue w).epoch = s.epoch := rfl
@[simp] theorem State.issue_draws : (s.issue w).draws = s.draws := rfl
@[simp] theorem State.issue_turns : (s.issue w).turns = s.turns := rfl
@[simp] theorem State.issue_prog : (s.issue w).prog = s.prog := rfl
@[simp] theorem State.issue_hostPc : (s.issue w).hostPc = s.hostPc := rfl
@[simp] theorem State.issue_names : (s.issue w).names = s.names := rfl
@[simp] theorem State.issue_responses : (s.issue w).responses = s.responses := rfl
end

section
variable (s : State) (e : Option CmdError)
@[simp] theorem State.complete_params : (s.complete e).params = s.params := rfl
@[simp] theorem State.complete_cmd : (s.complete e).cmd = s.cmd := rfl
@[simp] theorem State.complete_busy : (s.complete e).busy = false := rfl
@[simp] theorem State.complete_doneBit : (s.complete e).doneBit = true := rfl
@[simp] theorem State.complete_err : (s.complete e).err = statusCode e := rfl
@[simp] theorem State.complete_keyLen : (s.complete e).keyLen = s.keyLen := rfl
@[simp] theorem State.complete_inLen : (s.complete e).inLen = s.inLen := rfl
@[simp] theorem State.complete_outCount : (s.complete e).outCount = s.outCount := rfl
@[simp] theorem State.complete_op : (s.complete e).op = s.op := rfl
@[simp] theorem State.complete_result : (s.complete e).result = s.result := rfl
@[simp] theorem State.complete_subkey : (s.complete e).subkey = s.subkey := rfl
@[simp] theorem State.complete_trace : (s.complete e).trace = s.trace := rfl
@[simp] theorem State.complete_mem : (s.complete e).mem = s.mem := rfl
@[simp] theorem State.complete_epoch : (s.complete e).epoch = s.epoch := rfl
@[simp] theorem State.complete_draws : (s.complete e).draws = s.draws := rfl
@[simp] theorem State.complete_turns : (s.complete e).turns = s.turns := rfl
@[simp] theorem State.complete_prog : (s.complete e).prog = s.prog := rfl
@[simp] theorem State.complete_hostPc : (s.complete e).hostPc = s.hostPc := rfl
@[simp] theorem State.complete_names : (s.complete e).names = s.names := rfl
@[simp] theorem State.complete_responses : (s.complete e).responses = s.responses := rfl
end

section
variable (s : State)
@[simp] theorem State.afterReset_params : s.afterReset.params = s.params := rfl
@[simp] theorem State.afterReset_cmd : s.afterReset.cmd = 0 := rfl
@[simp] theorem State.afterReset_busy : s.afterReset.busy = false := rfl
@[simp] theorem State.afterReset_doneBit : s.afterReset.doneBit = false := rfl
@[simp] theorem State.afterReset_err : s.afterReset.err = 0 := rfl
@[simp] theorem State.afterReset_keyLen : s.afterReset.keyLen = 0 := rfl
@[simp] theorem State.afterReset_inLen : s.afterReset.inLen = 0 := rfl
@[simp] theorem State.afterReset_outCount : s.afterReset.outCount = 0 := rfl
@[simp] theorem State.afterReset_op : s.afterReset.op = Vector.replicate 8 0 := rfl
@[simp] theorem State.afterReset_result : s.afterReset.result = 0 := rfl
@[simp] theorem State.afterReset_subkey : s.afterReset.subkey = Vector.replicate 4 0 := rfl
@[simp] theorem State.afterReset_trace : s.afterReset.trace = Vector.replicate 8 0 := rfl
@[simp] theorem State.afterReset_mem : s.afterReset.mem = [] := rfl
@[simp] theorem State.afterReset_epoch : s.afterReset.epoch = s.epoch + 1 := rfl
@[simp] theorem State.afterReset_draws : s.afterReset.draws = s.draws := rfl
@[simp] theorem State.afterReset_turns : s.afterReset.turns = s.turns := rfl
@[simp] theorem State.afterReset_prog : s.afterReset.prog = s.prog := rfl
@[simp] theorem State.afterReset_hostPc : s.afterReset.hostPc = s.hostPc := rfl
@[simp] theorem State.afterReset_names : s.afterReset.names = s.names := rfl
@[simp] theorem State.afterReset_responses : s.afterReset.responses = s.responses := rfl
end

end Sys2Proof.Machine
end

