-- ==== Sys2Proof/Laws/Memory.lean ====
section
/-! SUPPORT. The laws of the byte buffers: read after write, what a write leaves alone, and that every memory operation keeps
the canonical form. -/

namespace Sys2Proof.Machine

/-! ### Lists of numbered entries -/

@[simp] theorem assocGet_nil {α : Type} (k : Nat) : assocGet ([] : List (Nat × α)) k = none := rfl

@[simp] theorem assocGet_set_same {α : Type} (m : List (Nat × α)) (k : Nat) (v : α) :
    assocGet (assocSet m k v) k = some v := by
  induction m with
  | nil => simp [assocSet, assocGet]
  | cons c rest ih =>
    obtain ⟨a, w⟩ := c
    simp only [assocSet]
    split
    · simp [assocGet]
    · split
      · simp [assocGet]
      · have : a ≠ k := by omega
        simp [assocGet, this, ih]

theorem assocGet_set_ne {α : Type} (m : List (Nat × α)) {k x : Nat} (v : α) (h : x ≠ k) :
    assocGet (assocSet m k v) x = assocGet m x := by
  have hk : k ≠ x := fun e => h e.symm
  induction m with
  | nil => simp [assocSet, assocGet, hk]
  | cons c rest ih =>
    obtain ⟨a, w⟩ := c
    simp only [assocSet]
    split
    · simp [assocGet, hk]
    · split
      next hka => subst hka; simp [assocGet, hk]
      next => simp [assocGet, ih]

theorem mem_assocSet {α : Type} {m : List (Nat × α)} {k : Nat} {v : α} {c : Nat × α}
    (h : c ∈ assocSet m k v) : c = (k, v) ∨ c ∈ m := by
  induction m with
  | nil => simpa [assocSet] using h
  | cons d rest ih =>
    obtain ⟨a, w⟩ := d
    simp only [assocSet] at h
    split at h
    · simpa using h
    · split at h
      · rcases List.mem_cons.1 h with h | h
        · exact .inl h
        · exact .inr (List.mem_cons_of_mem _ h)
      · rcases List.mem_cons.1 h with h | h
        · exact .inr (by simp [h])
        · rcases ih h with h | h
          · exact .inl h
          · exact .inr (List.mem_cons_of_mem _ h)

/-- An entry list is in canonical form just when its numbers are pairwise rising. -/
theorem assocWf_iff_pairwise {α : Type} (m : List (Nat × α)) :
    assocWf m = true ↔ m.Pairwise (fun c d => c.1 < d.1) := by
  induction m with
  | nil => simp [assocWf]
  | cons c rest ih =>
    cases rest with
    | nil => simp [assocWf]
    | cons d rest =>
      rw [assocWf, Bool.and_eq_true, ih, decide_eq_true_eq, List.pairwise_cons (a := c)]
      constructor
      · rintro ⟨hlt, hp⟩
        refine ⟨fun x hx => ?_, hp⟩
        rcases List.mem_cons.1 hx with rfl | hx
        · exact hlt
        · exact hlt.trans ((List.pairwise_cons.1 hp).1 x hx)
      · exact fun ⟨hall, hp⟩ => ⟨hall d (by simp), hp⟩

theorem assocWf_set {α : Type} {m : List (Nat × α)} (k : Nat) (v : α) (h : assocWf m = true) :
    assocWf (assocSet m k v) = true := by
  rw [assocWf_iff_pairwise] at h ⊢
  induction m with
  | nil => simp [assocSet]
  | cons c rest ih =>
    obtain ⟨a, w⟩ := c
    obtain ⟨hall, hp⟩ := List.pairwise_cons.1 h
    simp only [assocSet]
    split
    next hlt =>
      refine List.pairwise_cons.2 ⟨fun x hx => ?_, h⟩
      rcases List.mem_cons.1 hx with rfl | hx
      · exact hlt
      · exact Nat.lt_trans hlt (hall x hx)
    next =>
      split
      next heq => subst heq; exact List.pairwise_cons.2 ⟨hall, hp⟩
      next hne =>
        refine List.pairwise_cons.2 ⟨fun x hx => ?_, ih hp⟩
        rcases mem_assocSet hx with rfl | hx
        · show a < k; omega
        · exact hall x hx

/-! ### One byte -/

@[simp] theorem readByte_writeByte_same (s : State) (a : Nat) (b : Byte) : (s.writeByte a b).readByte a = b := by
  simp [State.readByte]

theorem readByte_writeByte_ne (s : State) {a x : Nat} (b : Byte) (h : x ≠ a) :
    (s.writeByte a b).readByte x = s.readByte x := by
  simp [State.readByte, assocGet_set_ne _ _ h]

/-- A byte reads alike in two states with the same buffers and the same reset. -/
theorem readByte_congr {s t : State} (hm : t.mem = s.mem) (he : t.epoch = s.epoch) (a : Nat) :
    t.readByte a = s.readByte a := by
  simp [State.readByte, hm, he]

/-! ### Several bytes -/

/-- Writing bytes changes nothing but the buffers. -/
theorem writeBytes_eq_withMem (s : State) (a n : Nat) (v : Word) :
    s.writeBytes a n v = s.withMem (s.writeBytes a n v).mem := by
  induction n generalizing s a v with
  | zero => rfl
  | succ n ih =>
    rw [State.writeBytes, ih]
    rfl

/-- What each byte reads as after a write of n bytes. -/
theorem readByte_writeBytes (s : State) (a n x : Nat) (v : Word) :
    (s.writeBytes a n v).readByte x =
      if a ≤ x ∧ x < a + n then byteOf (v >>> (8 * (x - a))) 0 else s.readByte x := by
  induction n generalizing s a v with
  | zero => simp only [State.writeBytes, Nat.add_zero]; rw [if_neg (by omega)]
  | succ n ih =>
    rw [State.writeBytes, ih]
    by_cases hx : x = a
    · subst hx
      rw [if_neg (by omega), if_pos (by omega)]
      simp
    · rw [readByte_writeByte_ne _ _ hx]
      by_cases h : a + 1 ≤ x ∧ x < a + 1 + n
      · rw [if_pos h, if_pos (by omega), ← BitVec.shiftRight_add]
        congr 2
        omega
      · rw [if_neg h, if_neg (by omega)]

theorem writeBytes_wf {s : State} (a n : Nat) (v : Word) (h : Memory.wf s.mem = true) :
    Memory.wf (s.writeBytes a n v).mem = true := by
  induction n generalizing s a v with
  | zero => exact h
  | succ n ih => exact ih (s := s.writeByte a _) (a + 1) (v >>> 8) (assocWf_set a _ h)

/-- A write of n bytes lists no offset but the old ones and those it writes. -/
theorem mem_writeBytes {s : State} {a n : Nat} {v : Word} {c : Host.Cell} (h : c ∈ (s.writeBytes a n v).mem) :
    (a ≤ c.1 ∧ c.1 < a + n) ∨ c ∈ s.mem := by
  induction n generalizing s a v with
  | zero => exact .inr h
  | succ n ih =>
    rcases ih h with h | h
    · exact .inl (by omega)
    · rcases mem_assocSet h with rfl | h
      · exact .inl (by simp)
      · exact .inr h

/-- The bytes of a Word read alike wherever each byte does. -/
theorem readBytes_congr {s t : State} {a b n : Nat} (h : ∀ i < n, t.readByte (b + i) = s.readByte (a + i)) :
    t.readBytes b n = s.readBytes a n := by
  induction n generalizing a b with
  | zero => rfl
  | succ n ih =>
    have h0 := h 0 (by omega)
    simp only [Nat.add_zero] at h0
    rw [State.readBytes, State.readBytes, h0, ih]
    intro i hi
    have := h (i + 1) (by omega)
    rwa [show b + (i + 1) = b + 1 + i by omega, show a + (i + 1) = a + 1 + i by omega] at this

@[simp] theorem readBytes_one (s : State) (a : Nat) : s.readBytes a 1 = zext32 (s.readByte a) := by
  simp [State.readBytes]

theorem byteOf_cons_zero (b : Byte) (w : Word) : byteOf (zext32 b ||| w <<< 8) 0 = b := by
  apply BitVec.eq_of_getLsbD_eq
  intro k hk
  simp [byteOf, zext32, hk, show k < 32 by omega]

theorem byteOf_cons_succ (b : Byte) (w : Word) {i : Nat} (hi : i < 3) :
    byteOf (zext32 b ||| w <<< 8) (i + 1) = byteOf w i := by
  apply BitVec.eq_of_getLsbD_eq
  intro k hk
  have hb : b.getLsbD (8 * (i + 1) + k) = false := BitVec.getLsbD_of_ge _ _ (by omega)
  simp [byteOf, zext32, hk, hb, show 8 * (i + 1) + k < 32 by omega, show ¬ 8 * (i + 1) + k < 8 by omega,
    show 8 * (i + 1) + k - 8 = 8 * i + k by omega, BitVec.getLsbD_eq_getElem (show 8 * i + k < 32 by omega)]

/-- Byte i of the Word read at a is the byte at a + i. -/
theorem byteOf_readBytes (s : State) {a n i : Nat} (hi : i < n) (hn : n ≤ 4) :
    byteOf (s.readBytes a n) i = s.readByte (a + i) := by
  induction n generalizing a i with
  | zero => omega
  | succ n ih =>
    rw [State.readBytes]
    cases i with
    | zero => rw [byteOf_cons_zero, Nat.add_zero]
    | succ i =>
      rw [byteOf_cons_succ _ _ (by omega), ih (by omega) (by omega)]
      congr 1
      omega

/-- A Word is known by its four bytes. -/
theorem word_ext_bytes {v w : Word} (h : ∀ i < 4, byteOf v i = byteOf w i) : v = w := by
  apply BitVec.eq_of_getLsbD_eq
  intro k hk
  have := congrArg (fun b => b.getLsbD (k % 8)) (h (k / 8) (by omega))
  simpa [byteOf, Nat.mod_lt, Nat.div_add_mod] using this

/-- A Word written at a reads back. -/
@[simp] theorem readBytes_writeBytes_same (s : State) (a : Nat) (v : Word) :
    (s.writeBytes a 4 v).readBytes a 4 = v := by
  apply word_ext_bytes
  intro i hi
  rw [byteOf_readBytes _ hi (by omega), readByte_writeBytes, if_pos (by omega), Nat.add_sub_cancel_left]
  apply BitVec.eq_of_getLsbD_eq
  intro k hk
  simp [byteOf]

/-- A Word written at a leaves every Word apart from it alone. -/
theorem readBytes_writeBytes_apart (s : State) {a b n m : Nat} (v : Word) (h : b + m ≤ a ∨ a + n ≤ b) :
    (s.writeBytes a n v).readBytes b m = s.readBytes b m := by
  apply readBytes_congr
  intro i hi
  rw [readByte_writeBytes, if_neg (by omega)]

end Sys2Proof.Machine
end

