-- ==== Sys2Proof/Laws/Bus.lean ====
section
/-! SUPPORT. What a bus access can do. -/

namespace Sys2Proof.Machine

theorem wordIndex_eq_some {start n offset : Nat} {i : Fin n} :
    wordIndex start n offset = some i ↔ start ≤ offset ∧ (offset - start) / 4 = i.val := by
  unfold wordIndex
  split
  next h =>
    rw [Option.some.injEq, Fin.ext_iff]
    exact ⟨fun e => ⟨h.1, e⟩, fun e => e.2⟩
  next h =>
    have := i.isLt
    simp only [reduceCtorEq, false_iff]
    rintro ⟨h1, h2⟩
    exact h ⟨h1, by omega⟩

/-- An offset that names a location is aligned and names a mapped one. -/
theorem locate_mapped {p : Params} {offset : Nat} {l : Loc} (h : locate p offset = some l) :
    offset % 4 = 0 ∧ locMapped p l = true := by
  unfold locate at h
  split at h
  next ha =>
    refine ⟨ha, ?_⟩
    simp only [Option.or_eq_some_iff, Option.map_eq_some_iff] at h
    obtain ⟨r, -, rfl⟩ | ⟨-, ⟨i, -, rfl⟩ | ⟨-, ⟨i, -, rfl⟩ | ⟨-, ⟨i, -, rfl⟩ | ⟨-, ⟨w, -, rfl⟩ | ⟨-, ⟨w, -, rfl⟩ |
      ⟨-, ⟨w, -, rfl⟩⟩⟩⟩⟩⟩⟩ := h
    all_goals simp [locMapped]
  next => cases h

/-- A read is refused and changes nothing; or draws a free value; or gives the location's value and changes nothing. -/
theorem busRead_cases (s : State) (offset : Nat) :
    (locate s.params offset = none ∧ busRead s offset = (.err, s)) ∨
    ∃ l, locate s.params offset = some l ∧
      ((s.busy = true ∧ locIsOutput l = true ∧ busRead s offset = (.okData (Config.freeWord s.draws), s.drawn)) ∨
       ((s.busy = false ∨ locIsOutput l = false) ∧ busRead s offset = (.okData (readLoc s l), s))) := by
  unfold busRead
  cases hl : locate s.params offset with
  | none => simp
  | some l =>
    refine .inr ⟨l, rfl, ?_⟩
    cases hb : s.busy <;> cases ho : locIsOutput l <;> simp [ho]

/-- A write is refused and changes nothing, or stores at a writable location while idle. -/
theorem busWrite_cases (s : State) (offset : Nat) (v : Word) :
    busWrite s offset v = (.err, s) ∨
    ∃ l, locate s.params offset = some l ∧ locWritable l = true ∧ s.busy = false ∧
      busWrite s offset v = (.ok, writeLoc s l v) := by
  unfold busWrite
  cases hl : locate s.params offset with
  | none => simp
  | some l =>
    cases hb : s.busy <;> cases hw : locWritable l <;> simp [hw]

/-- An access is one read or write at the offset its address names, with the response noted. -/
theorem busAccess_some {s t : State} {a : Access} {r : BusResp} (h : busAccess s a = some (r, t)) :
    ∃ offset, windowOffset s.params a.address = some offset ∧ r = (busOp s offset a.op).1 ∧
      t = (busOp s offset a.op).2.responded r := by
  unfold busAccess at h
  cases hw : windowOffset s.params a.address with
  | none => simp [hw] at h
  | some offset =>
    simp only [hw, Option.some.injEq, Prod.mk.injEq] at h
    exact ⟨offset, rfl, h.1.symm, by rw [← h.1]; exact h.2.symm⟩

@[simp] theorem windowOffset_base_add (p : Params) (offset : Nat) :
    windowOffset p (p.base + offset) = if offset < 0x1000 then some offset else none := by
  unfold windowOffset
  by_cases h : offset < 0x1000
  · rw [if_pos (by omega), if_pos h, Nat.add_sub_cancel_left]
  · rw [if_neg (by omega), if_neg h]

end Sys2Proof.Machine
end

