-- ==== Sys2Proof/Laws/Commands.lean ====
section
/-! SUPPORT. The operations the commands share: completion, errors, the key check, STREAM's validation and its block loop. -/

namespace Sys2Proof.Machine

@[simp] theorem finish_eq (s : State) : finish s = .next (s.complete none) := rfl
@[simp] theorem raise_eq (e : CmdError) (s : State) : raise e s = .next (s.complete (some e)) := rfl
@[simp] theorem statusCode_none : statusCode none = 0 := rfl
@[simp] theorem statusCode_some (e : CmdError) : statusCode (some e) = errorCode e := rfl

theorem errorCode_pos (e : CmdError) : errorCode e ≠ 0 := by cases e <;> decide

theorem statusCode_le (e : Option CmdError) : (statusCode e).toNat ≤ 4 := by
  rcases e with _ | e
  · decide
  · cases e <;> decide

/-! ### Operand checks -/

theorem keyCheck_eq_none_iff (s : State) :
    keyCheck s = none ↔ s.keyLen.toNat ≤ s.params.keyBufBytes ∧ 4 ≤ s.keyLen.toNat := by
  unfold keyCheck
  split
  · simp; omega
  · split <;> simp <;> omega

/-- The block count of R95, case by case. -/
theorem blockCount_ok {pad : PadPolicy} {len n : Nat} (h : blockCount pad len = .ok n) :
    (len % 4 = 0 ∧ n = len / 4) ∨
    (len % 4 ≠ 0 ∧ pad = .zeroPad ∧ n = (len + 3) / 4) ∨
    (len % 4 ≠ 0 ∧ pad = .truncate ∧ n = (len - len % 4) / 4) := by
  unfold blockCount at h
  split at h
  · exact .inl ⟨‹_›, (Except.ok.inj h).symm⟩
  · cases pad <;> simp_all

theorem blockCount_error {pad : PadPolicy} {len : Nat} {e : CmdError} (h : blockCount pad len = .error e) :
    len % 4 ≠ 0 ∧ pad = .reject ∧ e = .malformedBlock := by
  unfold blockCount at h
  split at h
  · simp at h
  · cases pad <;> simp_all

theorem blockCount_le {pad : PadPolicy} {len n : Nat} (h : blockCount pad len = .ok n) : n ≤ (len + 3) / 4 := by
  rcases blockCount_ok h with ⟨_, rfl⟩ | ⟨_, _, rfl⟩ | ⟨_, _, rfl⟩ <;> omega

/-- STREAM's validation passes just when no condition of R90 holds. -/
theorem streamPlan_ok {s : State} {n : Nat} (h : streamPlan s = .ok n) :
    s.keyLen.toNat ≤ s.params.keyBufBytes ∧ s.inLen.toNat ≤ s.params.inBufBytes ∧ 4 ≤ s.keyLen.toNat ∧
      blockCount s.params.padPolicy s.inLen.toNat = .ok n := by
  unfold streamPlan at h
  split at h
  · simp at h
  · split at h
    · simp at h
    · exact ⟨by omega, by omega, by omega, h⟩

/-! ### STREAM's block loop -/

/-- The block loop changes nothing but the buffers. -/
theorem streamBlocks_eq_withMem (start : State) (z : Words4) (n : Nat) (s : State) :
    streamBlocks start z n s = s.withMem (streamBlocks start z n s).mem := by
  induction n with
  | zero => rfl
  | succ n ih =>
    rw [streamBlocks, memWrite, writeBytes_eq_withMem]
    generalize streamBlocks start z n s = u at *
    rw [ih]
    rfl

/-- The block loop leaves every byte outside OUT[0..n-1] alone. -/
theorem readByte_streamBlocks (start : State) (z : Words4) (n : Nat) (s : State) {a : Nat}
    (h : a < 0x800 ∨ 0x800 + 4 * n ≤ a) : (streamBlocks start z n s).readByte a = s.readByte a := by
  induction n with
  | zero => rfl
  | succ n ih =>
    rw [streamBlocks, memWrite, readByte_writeBytes, if_neg, ih (by omega)]
    simp only [bufOffset]
    omega

/-- OUT word j of the block loop is the output of block j. -/
theorem readBytes_streamBlocks (start : State) (z : Words4) {n j : Nat} (s : State) (h : j < n) :
    (streamBlocks start z n s).readBytes (0x800 + 4 * j) 4 = (encryptBlock start.params (inputBlock start j) z).1 := by
  induction n with
  | zero => omega
  | succ n ih =>
    rw [streamBlocks, memWrite]
    simp only [bufOffset]
    by_cases hj : j = n
    · subst hj; rw [readBytes_writeBytes_same]
    · rw [readBytes_writeBytes_apart _ _ (by omega), ih (by omega)]

theorem streamBlocks_wf (start : State) (z : Words4) (n : Nat) {s : State} (h : Memory.wf s.mem = true) :
    Memory.wf (streamBlocks start z n s).mem = true := by
  induction n with
  | zero => exact h
  | succ n ih => exact writeBytes_wf _ _ _ ih

theorem mem_streamBlocks {start : State} {z : Words4} {n : Nat} {s : State} {c : Host.Cell}
    (h : c ∈ (streamBlocks start z n s).mem) : (0x800 ≤ c.1 ∧ c.1 < 0x800 + 4 * n) ∨ c ∈ s.mem := by
  induction n with
  | zero => exact .inr h
  | succ n ih =>
    rcases mem_writeBytes h with h | h
    · simp only [bufOffset] at h; exact .inl (by omega)
    · rcases ih h with h | h
      · exact .inl (by omega)
      · exact .inr h

/-! ### The state a command reads its operands from -/

/-- STREAM's block depends on IN_LEN and its own four input bytes alone. -/
theorem inputBlock_congr {s t : State} {j : Nat} (hl : t.inLen = s.inLen)
    (hb : ∀ i < 4, 4 * j + i < s.inLen.toNat → t.readByte (0x400 + (4 * j + i)) = s.readByte (0x400 + (4 * j + i))) :
    inputBlock t j = inputBlock s j := by
  have hbyte : ∀ i < 4, inputByte t (4 * j + i) = inputByte s (4 * j + i) := by
    intro i hi
    unfold inputByte
    rw [hl]
    split
    · simp only [memRead, bufOffset, readBytes_one]
      rw [hb i hi ‹_›]
    · rfl
  have h0 := hbyte 0 (by omega)
  rw [Nat.add_zero] at h0
  simp only [inputBlock, h0, hbyte 1 (by omega), hbyte 2 (by omega), hbyte 3 (by omega)]

/-- The SubkeySet depends on the first four KEY bytes alone. -/
theorem deriveSubkeys_congr {s t : State} (h : ∀ i < 4, t.readByte (0x100 + i) = s.readByte (0x100 + i)) :
    deriveSubkeys t = deriveSubkeys s := by
  simp only [deriveSubkeys, memRead, bufOffset, readBytes_one, h 0 (by omega), h 1 (by omega), h 2 (by omega),
    h 3 (by omega)]

theorem deriveSubkeys_le (s : State) (i : Fin 4) : ((deriveSubkeys s)[i]).toNat ≤ 255 := by
  have h : ∀ b : Byte, (zext32 b).toNat ≤ 255 := by
    intro b
    have := b.isLt
    simp only [zext32, BitVec.toNat_setWidth]
    omega
  fin_cases i <;> simp [deriveSubkeys, memRead, h]

end Sys2Proof.Machine
end

