-- ==== Sys2Proof/Laws/PerInstr.lean ====
section
/-! SUPPORT. A statement about every instruction as syntax, one lemma for each constructor. -/

/-- The word of a command keeps to format C: RSV is 0, and AMT is 0 for every command but the rotates (30_encoding.md R54). -/
def Sys2Proof.Laws.Encoding.Statement (i : Sys2Proof.Instr) : Prop :=
  Sys2Proof.rsvField (Sys2Proof.encode i) = 0 ∧
  ((∀ n, i ≠ .rotr n) → (∀ n, i ≠ .rotl n) → Sys2Proof.amtField (Sys2Proof.encode i) = 0)

namespace Sys2Proof.Laws.Encoding

theorem add : Statement .add := ⟨by decide, fun _ _ => by decide⟩
theorem mul : Statement .mul := ⟨by decide, fun _ _ => by decide⟩
theorem xor : Statement .xor := ⟨by decide, fun _ _ => by decide⟩
theorem rotr (amt : BitVec 5) : Statement (.rotr amt) :=
  ⟨by revert amt; decide, fun h _ => absurd rfl (h amt)⟩
theorem rotl (amt : BitVec 5) : Statement (.rotl amt) :=
  ⟨by revert amt; decide, fun _ h => absurd rfl (h amt)⟩
theorem keysched : Statement .keysched := ⟨by decide, fun _ _ => by decide⟩
theorem mixf : Statement .mixf := ⟨by decide, fun _ _ => by decide⟩
theorem mixl : Statement .mixl := ⟨by decide, fun _ _ => by decide⟩
theorem encblk : Statement .encblk := ⟨by decide, fun _ _ => by decide⟩
theorem stream : Statement .stream := ⟨by decide, fun _ _ => by decide⟩

end Sys2Proof.Laws.Encoding
end

