-- ==== Sys2Proof/Laws/Step.lean ====
section
/-! SUPPORT. What a step can do, said once: the turn of one agent, and what each agent's turn leaves of the core. -/

namespace Sys2Proof.Machine

theorem CoreKept.rfl' (s : State) : CoreKept s s := by constructor <;> rfl

theorem CoreKept.trans' {s t u : State} (h : CoreKept s t) (k : CoreKept t u) : CoreKept s u :=
  ⟨k.params.trans h.params, k.cmd.trans h.cmd, k.busy.trans h.busy, k.doneBit.trans h.doneBit, k.err.trans h.err,
    k.keyLen.trans h.keyLen, k.inLen.trans h.inLen, k.outCount.trans h.outCount, k.op.trans h.op,
    k.result.trans h.result, k.subkey.trans h.subkey, k.trace.trans h.trace, k.mem.trans h.mem, k.epoch.trans h.epoch⟩

/-- The bytes of the buffers read alike where the core is the same. -/
theorem CoreKept.readByte {s t : State} (h : CoreKept s t) (a : Nat) : t.readByte a = s.readByte a :=
  readByte_congr h.mem h.epoch a

theorem tookTurn_coreKept (s : State) : CoreKept s s.tookTurn := by constructor <;> rfl
theorem withHostPc_coreKept (s : State) (pc : Nat) : CoreKept s (s.withHostPc pc) := by constructor <;> rfl
theorem withName_coreKept (s : State) (n : Nat) (v : Word) : CoreKept s (s.withName n v) := by constructor <;> rfl
theorem responded_coreKept (s : State) (r : BusResp) : CoreKept s (s.responded r) := by constructor <;> rfl
theorem drawn_coreKept (s : State) : CoreKept s s.drawn := by constructor <;> rfl

theorem nameRead_coreKept (s : State) (name : Option Nat) (r : BusResp) : CoreKept s (s.nameRead name r) := by
  unfold State.nameRead
  split
  · exact withName_coreKept _ _ _
  · exact (withName_coreKept _ _ _).trans' (drawn_coreKept _)
  all_goals exact CoreKept.rfl' s

/-- To the core, an access is nothing, or one accepted write while idle. -/
theorem busOp_effect (s : State) (offset : Nat) (o : BusOp) :
    CoreKept s (busOp s offset o).2 ∨
    ∃ l v, locate s.params offset = some l ∧ locWritable l = true ∧ s.busy = false ∧
      (busOp s offset o).2 = writeLoc s l v := by
  cases o with
  | read =>
    refine .inl ?_
    rcases busRead_cases s offset with ⟨_, h⟩ | ⟨_, _, ⟨_, _, h⟩ | ⟨_, h⟩⟩ <;> simp only [busOp, h]
    · exact CoreKept.rfl' s
    · exact drawn_coreKept s
    · exact CoreKept.rfl' s
  | write v =>
    rcases busWrite_cases s offset v with h | ⟨l, hl, hw, hb, h⟩ <;> simp only [busOp, h]
    · exact .inl (CoreKept.rfl' s)
    · exact .inr ⟨l, v, hl, hw, hb, rfl⟩

/-- What a turn of the host or of a bus master can do to the core: nothing, or one accepted write while idle. -/
def BusEffect (s t : State) : Prop :=
  CoreKept s t ∨
  ∃ offset l v, locate s.params offset = some l ∧ locWritable l = true ∧ s.busy = false ∧ CoreKept (writeLoc s l v) t

theorem BusEffect.then_kept {s t u : State} (h : BusEffect s t) (k : CoreKept t u) : BusEffect s u := by
  rcases h with h | ⟨o, l, v, hl, hw, hb, h⟩
  · exact .inl (h.trans' k)
  · exact .inr ⟨o, l, v, hl, hw, hb, h.trans' k⟩

theorem busAccess_effect {s t : State} {a : Access} {r : BusResp} (h : busAccess s a = some (r, t)) : BusEffect s t := by
  obtain ⟨offset, _, rfl, rfl⟩ := busAccess_some h
  refine BusEffect.then_kept ?_ (responded_coreKept _ _)
  rcases busOp_effect s offset a.op with h | ⟨l, v, hl, hw, hb, h⟩
  · exact .inl h
  · exact .inr ⟨offset, l, v, hl, hw, hb, by rw [h]; exact CoreKept.rfl' _⟩

theorem hostJump_effect {s t : State} {l : Nat} (h : hostJump s l = .next t) : CoreKept s t := by
  unfold hostJump at h
  split at h
  · cases h; exact withHostPc_coreKept _ _
  · cases h

theorem hostStmt_effect {stmt : HostStmt} {s t : State} (h : hostStmt stmt s = .next t) : BusEffect s t := by
  cases stmt with
  | wr l e =>
    simp only [hostStmt] at h
    split at h
    next ha => cases h; exact (busAccess_effect ha).then_kept (withHostPc_coreKept _ _)
    next => cases h
  | rd l name =>
    simp only [hostStmt] at h
    split at h
    next ha =>
      cases h
      exact (busAccess_effect ha).then_kept ((nameRead_coreKept _ _ _).trans' (withHostPc_coreKept _ _))
    next => cases h
  | set n e => cases h; exact .inl ((withName_coreKept _ _ _).trans' (withHostPc_coreKept _ _))
  | label l => cases h; exact .inl (withHostPc_coreKept _ _)
  | goto l => exact .inl (hostJump_effect h)
  | ifGoto a c b l =>
    simp only [hostStmt] at h
    split at h
    · exact .inl (hostJump_effect h)
    · cases h; exact .inl (withHostPc_coreKept _ _)

theorem hostStep_effect {s t : State} (h : hostStep s = .next t) : BusEffect s t := by
  unfold hostStep at h
  split at h
  · exact hostStmt_effect h
  · cases h; exact .inl (CoreKept.rfl' s)

theorem busStep_effect {s t : State} {a : Access} (h : busStep a s = .next t) : BusEffect s t := by
  unfold busStep at h
  split at h
  next hb => cases h; exact busAccess_effect hb
  next => cases h

/-! ### Turns of the host and of a bus master leave the schedule alone -/

/-- The listed turns and the host's program are the same. -/
def ScheduleKept (s t : State) : Prop := t.turns = s.turns ∧ t.prog = s.prog

theorem writeLoc_schedule (s : State) (l : Loc) (v : Word) : ScheduleKept s (writeLoc s l v) := by
  cases l with
  | reg r => cases r <;> exact ⟨rfl, rfl⟩
  | outWord w => exact ⟨rfl, rfl⟩
  | keyWord w => rw [writeLoc, memWrite, writeBytes_eq_withMem]; exact ⟨rfl, rfl⟩
  | inWord w => rw [writeLoc, memWrite, writeBytes_eq_withMem]; exact ⟨rfl, rfl⟩

theorem busOp_schedule (s : State) (offset : Nat) (o : BusOp) : ScheduleKept s (busOp s offset o).2 := by
  cases o with
  | read =>
    rcases busRead_cases s offset with ⟨_, h⟩ | ⟨_, _, ⟨_, _, h⟩ | ⟨_, h⟩⟩ <;> simp only [busOp, h] <;> exact ⟨rfl, rfl⟩
  | write v =>
    rcases busWrite_cases s offset v with h | ⟨l, _, _, _, h⟩ <;> simp only [busOp, h]
    · exact ⟨rfl, rfl⟩
    · exact writeLoc_schedule s l v

theorem busAccess_schedule {s t : State} {a : Access} {r : BusResp} (h : busAccess s a = some (r, t)) :
    ScheduleKept s t := by
  obtain ⟨offset, _, _, rfl⟩ := busAccess_some h
  exact busOp_schedule s offset a.op

theorem nameRead_schedule (s : State) (name : Option Nat) (r : BusResp) : ScheduleKept s (s.nameRead name r) := by
  unfold State.nameRead
  split <;> exact ⟨rfl, rfl⟩

/-- A turn of a bus master goes on with the schedule as it was, or faults outside the window. -/
theorem busStep_outcome (a : Access) (s : State) :
    (∃ t, busStep a s = .next t ∧ ScheduleKept s t) ∨
    (windowOffset s.params a.address = none ∧ busStep a s = .fault .outsideWindow) := by
  unfold busStep
  cases h : busAccess s a with
  | some p => exact .inl ⟨p.2, rfl, busAccess_schedule h⟩
  | none =>
    refine .inr ⟨?_, rfl⟩
    unfold busAccess at h
    split at h
    · assumption
    · cases h

/-- A jump goes on with the schedule as it was, or faults at an unknown label. -/
theorem hostJump_outcome (s : State) (l : Nat) :
    (∃ t, hostJump s l = .next t ∧ ScheduleKept s t) ∨ hostJump s l = .fault .unknownLabel := by
  unfold hostJump
  split
  · exact .inl ⟨_, rfl, rfl, rfl⟩
  · exact .inr rfl

/-- A host statement goes on with the schedule as it was, or ends in one of the two faults. -/
theorem hostStmt_outcome (stmt : HostStmt) (s : State) :
    (∃ t, hostStmt stmt s = .next t ∧ ScheduleKept s t) ∨
    hostStmt stmt s = .fault .outsideWindow ∨ hostStmt stmt s = .fault .unknownLabel := by
  cases stmt with
  | wr l e =>
    simp only [hostStmt]
    split
    next ha =>
      obtain ⟨h1, h2⟩ := busAccess_schedule ha
      exact .inl ⟨_, rfl, h1, h2⟩
    next => exact .inr (.inl rfl)
  | rd l name =>
    simp only [hostStmt]
    split
    next r u ha =>
      obtain ⟨h1, h2⟩ := busAccess_schedule ha
      obtain ⟨h3, h4⟩ := nameRead_schedule u name r
      exact .inl ⟨_, rfl, h3.trans h1, h4.trans h2⟩
    next => exact .inr (.inl rfl)
  | set n e => exact .inl ⟨_, rfl, rfl, rfl⟩
  | label l => exact .inl ⟨_, rfl, rfl, rfl⟩
  | goto l => exact (hostJump_outcome s l).imp_right .inr
  | ifGoto a c b l =>
    simp only [hostStmt]
    split
    · exact (hostJump_outcome s l).imp_right .inr
    · exact .inl ⟨_, rfl, rfl, rfl⟩

/-- What a turn of the core can do. -/
theorem coreStep_cases {s t : State} (h : coreStep s = .next t) :
    (s.busy = false ∧ t = s) ∨
    (s.busy = true ∧ ∃ i, decode s.cmd = .ok i ∧ exec i s = .next t) ∨
    (s.busy = true ∧ (∃ k, decode s.cmd = .error k) ∧ t = s.complete (some .illegalCommand)) := by
  unfold coreStep at h
  split at h
  next hb =>
    split at h
    next i hi => exact .inr (.inl ⟨hb, i, hi, h⟩)
    next k hk => cases h; exact .inr (.inr ⟨hb, ⟨k, hk⟩, rfl⟩)
  next hb => cases h; exact .inl ⟨by simpa using hb, rfl⟩

/-- What a step can do, agent by agent. -/
theorem step_cases {s t : State} (h : step s = .next t) :
    (s.mover = none ∧ t = s) ∨
    (s.mover = some .core ∧ coreStep s.tookTurn = .next t) ∨
    ((s.mover = some .host ∨ ∃ a, s.mover = some (.bus a)) ∧ BusEffect s.tookTurn t) ∨
    (s.mover = some .reset ∧ t = s.tookTurn.afterReset) := by
  unfold step stepTurn at h
  split at h
  next m hm =>
    cases m with
    | core => exact .inr (.inl ⟨hm, h⟩)
    | host => exact .inr (.inr (.inl ⟨.inl hm, hostStep_effect h⟩))
    | bus a => exact .inr (.inr (.inl ⟨.inr ⟨a, hm⟩, busStep_effect h⟩))
    | reset => cases h; exact .inr (.inr (.inr ⟨hm, rfl⟩))
  next hm => cases h; exact .inl ⟨hm, rfl⟩

/-- With a turn listed first, that agent moves. -/
theorem mover_of_turns {s : State} {m : Turn} {rest : List Turn} (h : s.turns = m :: rest) : s.mover = some m := by
  simp [State.mover, h]

end Sys2Proof.Machine
end

