-- ==== Sys2Proof/Laws/Units.lean ====
section
/-! SUPPORT. The units' relation to the library's operations on bit vectors. -/

namespace Sys2Proof.Machine

/-- The left rotation of R66 is the library's. -/
theorem rotl32_eq_rotateLeft (v : Word) (n : BitVec 5) : rotl32 v n = v.rotateLeft n.toNat := by
  have hn : n.toNat < 32 := n.isLt
  unfold rotl32
  split
  next h =>
    subst h
    simp [BitVec.rotateLeft, BitVec.rotateLeftAux, BitVec.ushiftRight_eq_zero]
  next => simp [BitVec.rotateLeft, BitVec.rotateLeftAux, Nat.mod_eq_of_lt hn]

/-- The right rotation of R66 is the library's. -/
theorem rotr32_eq_rotateRight (v : Word) (n : BitVec 5) : rotr32 v n = v.rotateRight n.toNat := by
  have hn : n.toNat < 32 := n.isLt
  unfold rotr32
  split
  next h =>
    subst h
    simp [BitVec.rotateRight, BitVec.rotateRightAux, BitVec.shiftLeft_eq_zero]
  next => simp [BitVec.rotateRight, BitVec.rotateRightAux, Nat.mod_eq_of_lt hn]

/-- The multiplier's loop adds to its accumulator what it would compute from 0. -/
theorem mulLoop_acc (dir : RotDir) (b : Word) (steps i : Nat) (acc s : Word) :
    mulLoop dir b steps i acc s = add32 acc (mulLoop dir b steps i 0 s) := by
  induction steps generalizing i acc s with
  | zero => simp [mulLoop, add32]
  | succ n ih =>
    rw [mulLoop, mulLoop, ih, ih (i + 1) (if b.getLsbD i then add32 0 s else 0)]
    split <;> simp [add32, BitVec.add_assoc]

end Sys2Proof.Machine
end

