-- ==== Sys2Proof/Tests/Slice0.lean ====
section
/-! SUPPORT. The model's own tests. Expected values are the spec's (95_test_vectors.md, and the examples of the rules), never
the model's answers. Then, for each obligation with hypotheses, a witness: concrete states and operands that meet them. -/

namespace Sys2Proof.Tests

open Sys2Proof Sys2Proof.Machine

set_option maxRecDepth 4000

/-! ### Helpers -/

/-- What f sees of the next state, if there is one. -/
def after {α : Type} (r : Result) (f : State → α) : Option α :=
  match r with
  | .next s => some (f s)
  | .fault _ => none
  | .refused _ => none

/-- The reset state with the given OP registers. -/
def withOps (ops : Vector Word 8) : State := { State.reset with op := ops }

/-- A state with multiplier direction RIGHT. -/
def right (s : State) : State := { s with params := { s.params with mulRotDir := .right } }

/-- A state with the given partial-block policy. -/
def withPad (pad : PadPolicy) (s : State) : State := { s with params := { s.params with padPolicy := pad } }

/-- KEY = 0, 1, 0, 1 and the input bytes "ABCDEFGH" = 0x41..0x48, with the given lengths (V-STR-1). -/
def streamState (keyLen inLen : Word) : State :=
  { State.reset with
    keyLen := keyLen, inLen := inLen,
    mem := [(0x100, 0), (0x101, 1), (0x102, 0), (0x103, 1), (0x400, 0x41), (0x401, 0x42), (0x402, 0x43), (0x403, 0x44),
      (0x404, 0x45), (0x405, 0x46), (0x406, 0x47), (0x407, 0x48)] }

/-- A command issued from reset and not completed yet. -/
def issued (w : Word) : State := State.reset.issue w

/-! ### Well-formedness: an ill-formed term for each check -/

theorem test_wf_accepts_rotr_31 : (⟨.ROTR, some 31⟩ : Source).wf = true := by decide
theorem test_wf_refuses_rotr_32 : (⟨.ROTR, some 32⟩ : Source).wf = false := by decide
theorem test_wf_refuses_negative_amount : (⟨.ROTL, some (-1)⟩ : Source).wf = false := by decide
theorem test_wf_refuses_rotate_without_amount : (⟨.ROTL, none⟩ : Source).wf = false := by decide
theorem test_wf_refuses_operand_on_add : (⟨.ADD, some 1⟩ : Source).wf = false := by decide
theorem test_default_params_legal : defaultParams.Legal := by decide
theorem test_key_buf_6_illegal : ¬ ({ defaultParams with keyBufBytes := 6 } : Params).Legal := by decide
theorem test_key_buf_260_illegal : ¬ ({ defaultParams with keyBufBytes := 260 } : Params).Legal := by decide
theorem test_key_buf_0_illegal : ¬ ({ defaultParams with keyBufBytes := 0 } : Params).Legal := by decide
theorem test_in_buf_2_illegal : ¬ ({ defaultParams with inBufBytes := 2 } : Params).Legal := by decide
theorem test_in_buf_0_illegal : ¬ ({ defaultParams with inBufBytes := 0 } : Params).Legal := by decide
theorem test_in_buf_1028_illegal : ¬ ({ defaultParams with inBufBytes := 1028 } : Params).Legal := by decide
theorem test_base_unaligned_illegal : ¬ ({ defaultParams with base := 0x1234 } : Params).Legal := by decide
theorem test_wf_refuses_bit_32 : (HostExpr.bits (.lit 0) 32 0).wf = false := by decide
theorem test_wf_refuses_empty_field : (HostExpr.bits (.lit 0) 0 1).wf = false := by decide
theorem test_wf_refuses_unknown_label : hostProgramWf [.goto 3] = false := by decide
theorem test_wf_refuses_label_twice : hostProgramWf [.label 1, .label 1] = false := by decide
theorem test_wf_accepts_run : hostProgramWf (pseudoRun .add 0 0) = true := by decide

/-! ### Decoding: words written out from the encodings of R57 (V-DEC-1 to V-DEC-24) -/

theorem test_decode_add : decode 0b00000000000000000000000000000001#32 = .ok .add := by decide
theorem test_decode_mul : decode 0b00000000000000000000000000000010#32 = .ok .mul := by decide
theorem test_decode_xor : decode 0b00000000000000000000000000000011#32 = .ok .xor := by decide
theorem test_decode_rotr_31 : decode 0b00000000000000000001111100000100#32 = .ok (.rotr 31) := by decide
theorem test_decode_rotl_1 : decode 0b00000000000000000000000100000101#32 = .ok (.rotl 1) := by decide
theorem test_decode_keysched : decode 0b00000000000000000000000000010000#32 = .ok .keysched := by decide
theorem test_decode_mixf : decode 0b00000000000000000000000000100000#32 = .ok .mixf := by decide
theorem test_decode_mixl : decode 0b00000000000000000000000000100001#32 = .ok .mixl := by decide
theorem test_decode_encblk : decode 0b00000000000000000000000000100010#32 = .ok .encblk := by decide
theorem test_decode_stream : decode 0b00000000000000000000000000110000#32 = .ok .stream := by decide
theorem test_decode_refuses_zero : decode 0x00000000#32 = .error .unassignedOpcode := by decide
theorem test_decode_refuses_add_with_amount : decode 0x00000101#32 = .error .amountOnNonRotate := by decide
theorem test_decode_refuses_rotr_with_reserved_bit : decode 0x00002004#32 = .error .reservedBits := by decide
theorem test_no_two_rows_overlap :
    opcodeRows.Pairwise (fun r q => r.bits &&& (r.mask &&& q.mask) ≠ q.bits &&& (r.mask &&& q.mask)) := by
  simp [opcodeRows]

/-! ### Commands -/

-- V-ADD-3, V-ADD-1
theorem test_add : after (exec .add (withOps #v[0x12345678, 0x9ABCDEF0, 0, 0, 0, 0, 0, 0])) (·.result) =
    some 0xACF13568 := by decide
theorem test_add_wraps : after (exec .add (withOps #v[0xFFFFFFFF, 1, 0, 0, 0, 0, 0, 0])) (·.result) = some 0 := by decide
-- V-MUL-16 under LEFT, V-MUL-17 under RIGHT
theorem test_mul_left : after (exec .mul (withOps #v[0x12345678, 0x9ABCDEF0, 0, 0, 0, 0, 0, 0])) (·.result) =
    some 0x2F2E0AC6 := by decide
theorem test_mul_right : after (exec .mul (right (withOps #v[0x9ABCDEF0, 0x12345678, 0, 0, 0, 0, 0, 0]))) (·.result) =
    some 0xFA64852A := by decide
-- V-XOR-1
theorem test_xor : after (exec .xor (withOps #v[0x0F0F0F0F, 0xFFFF0000, 0, 0, 0, 0, 0, 0])) (·.result) =
    some 0xF0F00F0F := by decide
-- V-ROT-5, V-ROT-8
theorem test_rotr_4 : after (exec (.rotr 4) (withOps #v[0x12345678, 0, 0, 0, 0, 0, 0, 0])) (·.result) =
    some 0x81234567 := by decide
theorem test_rotr_31 : after (exec (.rotr 31) (withOps #v[0x12345678, 0, 0, 0, 0, 0, 0, 0])) (·.result) =
    some 0x2468ACF0 := by decide
-- V-ROT-6, V-ROT-11
theorem test_rotl_4 : after (exec (.rotl 4) (withOps #v[0x12345678, 0, 0, 0, 0, 0, 0, 0])) (·.result) =
    some 0x23456781 := by decide
theorem test_rotl_0 : after (exec (.rotl 0) (withOps #v[0xDEADBEEF, 0, 0, 0, 0, 0, 0, 0])) (·.result) =
    some 0xDEADBEEF := by decide
-- V-KS-5: no sign extension
theorem test_keysched_zero_extends :
    after (exec .keysched { State.reset with keyLen := 4, mem := [(0x100, 0xFF), (0x101, 0x80), (0x102, 0x7F), (0x103, 0)] })
      (fun s => (s.subkey[0], s.subkey[1], s.subkey[2], s.subkey[3])) = some (0xFF, 0x80, 0x7F, 0) := by decide
-- V-KS-6
theorem test_keysched_bad_length : after (exec .keysched { State.reset with keyLen := 33 }) statusWord =
    some 0x00000022 := by decide
-- V-MIX-4 under LEFT and RIGHT
theorem test_mixf_left :
    after (exec .mixf (withOps #v[0x12345678, 0x9ABCDEF0, 0x0F0F0F0F, 0xFFFFFFFF, 0x10, 0, 0, 0])) (·.result) =
    some 0x32EEAA7F := by decide
theorem test_mixf_right :
    after (exec .mixf (right (withOps #v[0x12345678, 0x9ABCDEF0, 0x0F0F0F0F, 0xFFFFFFFF, 0x10, 0, 0, 0]))) (·.result) =
    some 0xD510CC99 := by decide
-- V-MIX-10
theorem test_mixl :
    after (exec .mixl (withOps #v[0x12345678, 0x9ABCDEF0, 0x0F0F0F0F, 0xFFFFFFFF, 0x10, 0, 0, 0])) (·.result) =
    some 0xC908C87F := by decide
-- V-ENC-1: the eight intermediate values
theorem test_encblk_trace : after (exec .encblk (withOps #v[0x41, 0x42, 0x43, 0x44, 0, 1, 0, 1])) (fun s => s.trace.toList) =
    some [0xC1, 0x109, 0xC7, 0x109, 0xC9, 0x10F, 0xC7, 0x10B] := by decide
-- V-ENC-9: full-width words
theorem test_encblk_result :
    after (exec .encblk (withOps #v[0x12345678, 0x9ABCDEF0, 0x0F0F0F0F, 0xFFFFFFFF, 0x10, 3, 0x80000000, 0xFFFFFFFF]))
      (·.result) = some 0x9797978A := by decide
-- V-STR-1
theorem test_stream_two_blocks :
    after (exec .stream (streamState 32 8)) (fun s => (readLoc s (.outWord 0), readLoc s (.outWord 1), s.outCount)) =
    some (0x0000010B, 0x00000123, 2) := by decide
-- V-STR-4: the last block is 0x45, 0, 0, 0
theorem test_stream_zero_pad :
    after (exec .stream (withPad .zeroPad (streamState 32 5))) (fun s => (readLoc s (.outWord 1), s.outCount)) =
    some (0, 2) := by decide

/-! ### The bus, the host and reset -/

-- V-BUS-1, V-BUS-2
theorem test_bus_little_endian : (busWrite State.reset 0x400 0x44434241).2.readByte 0x400 = 0x41 := by decide
theorem test_bus_reads_back : (busRead (busWrite State.reset 0x400 0x44434241).2 0x400).1 = .okData 0x44434241 := by decide
-- V-BUS-4, V-BUS-5, V-BUS-6, V-BUS-7, V-BUS-9
theorem test_bus_errors : [0x102, 0x014, 0x120, 0x500, 0x900].map (fun a => (busRead State.reset a).1) =
    [.err, .err, .err, .err, .err] := by decide
-- V-BUS-10, V-BUS-11, V-BUS-12
theorem test_bus_read_only : [0x040, 0x004, 0x800].map (fun a => (busWrite State.reset a 1).1) =
    [.err, .err, .err] := by decide
-- V-BUS-13, V-BUS-16
theorem test_bus_busy : (busWrite (issued 1) 0x020 0xFFFF).1 = .err ∧ (busRead (issued 1) 0x004).1 = .okData 1 := by decide
-- V-RST-2
theorem test_reset_abandons_command :
    after (step { issued 1 with turns := [.reset], op := #v[7, 9, 0, 0, 0, 0, 0, 0] }) (fun s => (statusWord s, s.result)) =
    some (0, 0) := by decide
-- P4: the read of the misaligned offset gets ERR
theorem test_host_misaligned_read :
    after (step { State.reset with prog := [.rd (.raw (.lit 0x022)) (some 0)] }) (fun s => (s.responses, s.hostPc)) =
    some ([.err], 1) := by decide
-- R63: WRBYTES packs little-endian and fills the last word with 0
theorem test_write_bytes : pseudoWriteIn [0x41, 0x42, 0x43, 0x44, 0x45] =
    [.wr (.inBuf (.lit 0)) (.lit 0x44434241), .wr (.inBuf (.lit 1)) (.lit 0x00000045), .wr (.reg .inLen) (.lit 5)] := by
  decide
-- V-DEC-12 and V-DEC-21, run as the first command after reset
theorem test_first_command_runs : after (step (State.reset.withFetchWord 32 0x30)) statusWord = some 0x00000032 := by decide
theorem test_first_illegal_word : after (step (State.reset.withFetchWord 32 0x130)) statusWord = some 0x00000012 := by decide

/-! ### Witnesses: states and operands that meet the hypotheses of each obligation that has some -/

theorem witness_DecodeAndEncodeAgree : decode 0x00001F04 = .ok (.rotr 31) := by decide

theorem witness_IllegalWordsRaiseIllegalCommand :
    (issued 0x101).busy = true ∧ decode (issued 0x101).cmd = .error .amountOnNonRotate := by decide

theorem witness_AssemblerAcceptsAndRefuses :
    (31 ≤ 31 ∧ 0 ≤ 31) ∧ ((-1 : Int) < 0 ∧ (31 : Int) < 32) ∧ (Mnemonic.STREAM ≠ .ROTR ∧ Mnemonic.STREAM ≠ .ROTL) := by
  decide

theorem witness_RotationLaws : (31 : BitVec 5) ≠ 0 ∧ (1 : BitVec 5) ≠ 0 := by decide

theorem witness_MultiplierIdentities : 0 < 32 ∧ 31 < 32 := by decide

theorem witness_MultiplierIsOrdinaryWithoutWraps :
    ∀ i < 32, (0x0001FFFF : Word).getLsbD i = true → (0x0000FFFF : Word).toNat < 2 ^ (32 - i) := by decide

/-- The clauses at their boundaries: 33 past the buffer, 3 below four, 4 and 32 valid. -/
theorem witness_KeyschedCompletes :
    (streamState 33 0).params.keyBufBytes < (streamState 33 0).keyLen.toNat ∧
    ((streamState 3 0).keyLen.toNat ≤ (streamState 3 0).params.keyBufBytes ∧ (streamState 3 0).keyLen.toNat < 4) ∧
    (4 ≤ (streamState 4 0).keyLen.toNat ∧ (streamState 4 0).keyLen.toNat ≤ (streamState 4 0).params.keyBufBytes) ∧
    (4 ≤ (streamState 32 0).keyLen.toNat ∧ (streamState 32 0).keyLen.toNat ≤ (streamState 32 0).params.keyBufBytes) := by
  decide

/-- A state whose fifth KEY byte has been written, and one where it has not. -/
theorem witness_KeyschedReadsFourBytes :
    let s := streamState 32 0
    let t := s.writeByte 0x104 0xAB
    t.params.keyBufBytes = s.params.keyBufBytes ∧ t.keyLen = s.keyLen ∧
      (∀ i < 4, t.readByte (0x100 + i) = s.readByte (0x100 + i)) ∧ t ≠ s := by decide

theorem witness_MixCornerCases :
    (withOps #v[0x41, 0x42, 0x43, 0x44, 0, 0, 0, 0]).op[4] = 0 ∧ (withOps #v[0x41, 0x42, 0x43, 0x44, 1, 0, 0, 0]).op[4] = 1 := by
  decide

/-- Each clause of the block count: whole blocks (the empty and the full input), ZERO_PAD, TRUNCATE. -/
theorem witness_StreamCompletes :
    let ok (s : State) (n : Nat) : Prop :=
      s.keyLen.toNat ≤ s.params.keyBufBytes ∧ s.inLen.toNat ≤ s.params.inBufBytes ∧ 4 ≤ s.keyLen.toNat ∧
      ((s.inLen.toNat % 4 = 0 ∧ n = s.inLen.toNat / 4) ∨
       (s.inLen.toNat % 4 ≠ 0 ∧ s.params.padPolicy = .zeroPad ∧ n = (s.inLen.toNat + 3) / 4) ∨
       (s.inLen.toNat % 4 ≠ 0 ∧ s.params.padPolicy = .truncate ∧ n = (s.inLen.toNat - s.inLen.toNat % 4) / 4))
    ok (streamState 4 0) 0 ∧ ok (streamState 32 256) 64 ∧ ok (withPad .zeroPad (streamState 32 5)) 2 ∧
      ok (withPad .truncate (streamState 32 7)) 1 := by decide

/-- Each error clause at its boundary. -/
theorem witness_StreamValidatesEagerly :
    (streamState 33 0).params.keyBufBytes < (streamState 33 0).keyLen.toNat ∧
    (streamState 4 257).params.inBufBytes < (streamState 4 257).inLen.toNat ∧
    ((streamState 3 256).keyLen.toNat ≤ (streamState 3 256).params.keyBufBytes ∧
      (streamState 3 256).inLen.toNat ≤ (streamState 3 256).params.inBufBytes ∧ (streamState 3 256).keyLen.toNat < 4) ∧
    ((streamState 4 255).keyLen.toNat ≤ (streamState 4 255).params.keyBufBytes ∧
      (streamState 4 255).inLen.toNat ≤ (streamState 4 255).params.inBufBytes ∧ 4 ≤ (streamState 4 255).keyLen.toNat ∧
      (streamState 4 255).params.padPolicy = .reject ∧ (streamState 4 255).inLen.toNat % 4 ≠ 0) := by decide

/-- The lengths on both sides of each boundary: 33, 32, 3 and 4. -/
theorem witness_StreamOfEmptyInput :
    (streamState 33 0).inLen = 0 ∧ (streamState 33 0).params.keyBufBytes < (streamState 33 0).keyLen.toNat ∧
    (streamState 3 0).inLen = 0 ∧ (streamState 3 0).keyLen.toNat < 4 ∧
    (streamState 4 0).inLen = 0 ∧ 4 ≤ (streamState 4 0).keyLen.toNat ∧
    (streamState 32 0).inLen = 0 ∧ (streamState 32 0).keyLen.toNat ≤ (streamState 32 0).params.keyBufBytes := by decide

theorem witness_StreamMatchesEncblk :
    ∃ t, exec .stream (streamState 32 8) = .next t ∧ t.err = 0 ∧ 1 < t.outCount.toNat := ⟨_, rfl, by decide, by decide⟩

/-- Two states that differ in what STREAM does not read: an OP register and an input byte past IN_LEN. -/
theorem witness_StreamIsDeterminedByItsInputs :
    let s := streamState 32 4
    let t := (s.withOp 0 5).writeByte 0x404 0xAB
    t.params = s.params ∧ t.keyLen = s.keyLen ∧ t.inLen = s.inLen ∧
      (∀ i < 4, t.readByte (0x100 + i) = s.readByte (0x100 + i)) ∧
      (∀ b < s.inLen.toNat, t.readByte (0x400 + b) = s.readByte (0x400 + b)) ∧ t ≠ s := by decide

/-- Two inputs of eight bytes that differ in block 0 and agree in block 1. -/
theorem witness_StreamBlocksAreIndependent :
    let s := streamState 32 8
    let t := s.writeByte 0x400 0xAB
    t.params = s.params ∧ t.keyLen = s.keyLen ∧ t.inLen = s.inLen ∧
      (∀ i < 4, t.readByte (0x100 + i) = s.readByte (0x100 + i)) ∧
      (∀ i < 4, t.readByte (0x400 + (4 * 1 + i)) = s.readByte (0x400 + (4 * 1 + i))) ∧
      ∃ u w, exec .stream s = .next u ∧ exec .stream t = .next w ∧ u.err = 0 ∧ 1 < u.outCount.toNat :=
  ⟨by decide, by decide, by decide, by decide, by decide, _, _, rfl, rfl, by decide, by decide⟩

theorem witness_CompletionReportsFirstError : (issued 0x30).busy = true := by decide

theorem witness_ErrorsWriteOnlyStatus :
    ∃ t, (issued 0x30).busy = true ∧ coreStep (issued 0x30) = .next t ∧ t.err ≠ 0 :=
  ⟨(issued 0x30).complete (some .invalidKeyLength), by decide, rfl, by decide⟩

theorem witness_CommandFrames :
    (∃ t, exec .stream (streamState 32 8) = .next t) ∧ (∃ t, exec .keysched (streamState 32 0) = .next t) ∧
    (∃ t, exec .encblk State.reset = .next t) ∧ ∃ t, exec .add State.reset = .next t :=
  ⟨⟨_, rfl⟩, ⟨_, rfl⟩, ⟨_, rfl⟩, ⟨_, rfl⟩⟩

/-- An idle state with an error code: a write of KEY_LEN keeps it, a write of CMD clears it. -/
def failed (a : Access) : State := { State.reset.complete (some .badLength) with turns := [.bus a] }

theorem witness_ErrorCodePersists :
    (∃ t, step (failed ⟨0x008, .write 5⟩) = .next t ∧ t.err = 2) ∧ (∃ t, step (failed ⟨0x000, .write 1⟩) = .next t ∧ t.err = 0) ∧
    (failed ⟨0x008, .write 5⟩).busy = false ∧ (failed ⟨0x008, .write 5⟩).mover ≠ some .reset :=
  ⟨⟨_, rfl, by decide⟩, ⟨_, rfl, by decide⟩, by decide, by decide⟩

theorem witness_StepRunsDecodedCommand :
    (issued 0x1).mover = some .core ∧ (issued 0x1).busy = true ∧ decode (issued 0x1).cmd = .ok .add := by decide

theorem witness_IdleChangesNothing :
    State.reset.busy = false ∧ State.reset.turns = [] ∧ State.reset.prog.length ≤ State.reset.hostPc := by decide

/-- The last address of the window and the first past it. -/
theorem witness_BusTurnIsOneAccess :
    let s (a : Nat) : State := { State.reset with turns := [.bus ⟨a, .read⟩] }
    ((s 0xFFF).mover = some (.bus ⟨0xFFF, .read⟩) ∧ State.reset.params.base ≤ 0xFFF ∧ 0xFFF < State.reset.params.base + 0x1000) ∧
    ((s 0x1000).mover = some (.bus ⟨0x1000, .read⟩) ∧ State.reset.params.base + 0x1000 ≤ 0x1000) := by decide

/-- Each kind of host statement answers a next state somewhere. -/
theorem witness_HostStatementsTouchTheCoreByOneAccess :
    let s : State := { State.reset with prog := [.label 0] }
    (∃ t, hostStmt (.set 0 (.lit 1)) s = .next t) ∧ (∃ t, hostStmt (.label 0) s = .next t) ∧
    (∃ t, hostStmt (.goto 0) s = .next t) ∧ (∃ t, hostStmt (.ifGoto (.lit 0) .eq (.lit 0) 0) s = .next t) ∧
    (∃ t, hostStmt (.wr (.reg .cmd) (.lit 1)) s = .next t) ∧
    ∃ t, hostStmt (.rd (.reg .status) (some 0)) s = .next t ∧ assocGet t.names 0 = some 0 :=
  ⟨⟨_, rfl⟩, ⟨_, rfl⟩, ⟨_, rfl⟩, ⟨_, rfl⟩, ⟨_, rfl⟩, ⟨_, rfl, by decide⟩⟩

/-- A bus master tries to write OP[0] while a command is pending. -/
def busyWrite : State := { issued 0x1 with turns := [.bus ⟨0x020, .write 0xFFFF⟩] }

theorem witness_CoreIsFrozenWhileBusy :
    busyWrite.busy = true ∧ busyWrite.mover ≠ some .core ∧ busyWrite.mover ≠ some .reset ∧ ∃ t, step busyWrite = .next t :=
  ⟨by decide, by decide, by decide, _, rfl⟩

theorem witness_OperandsAreFrozenUntilCompletion :
    (issued 0x30).busy = true ∧ (issued 0x30).mover ≠ some .reset ∧ ∃ t, step (issued 0x30) = .next t :=
  ⟨by decide, by decide, _, rfl⟩

theorem witness_OutputsChangeOnlyAtCompletion :
    (∃ t, step busyWrite = .next t) ∧ busyWrite.mover ≠ some .reset ∧ ¬ (busyWrite.mover = some .core ∧ busyWrite.busy = true) ∧
      busyWrite.params.Legal := ⟨⟨_, rfl⟩, by decide, by decide, by decide⟩

/-- A completion; a reset while busy; a command issued after a completed one, by a bus master and by the host. -/
theorem witness_DoneMarksCompletion :
    (∃ t, step (issued 0x1) = .next t ∧ (issued 0x1).doneBit = false ∧ t.doneBit = true) ∧
    (∃ t, step { issued 0x1 with turns := [.reset] } = .next t ∧ t.busy = false) ∧
    (∃ t, step (failed ⟨0x000, .write 1⟩) = .next t ∧ (failed ⟨0x000, .write 1⟩).doneBit = true ∧ t.doneBit = false ∧
      (failed ⟨0x000, .write 1⟩).busy = false ∧ t.busy = true) ∧
    ∃ t, step { State.reset with prog := pseudoIssue .add } = .next t ∧ t.busy = true :=
  ⟨⟨_, rfl, by decide, by decide⟩, ⟨_, rfl, by decide⟩, ⟨_, rfl, by decide, by decide, by decide, by decide⟩, ⟨_, rfl, by decide⟩⟩

/-- A completed command, and a bus master that writes the next operand. -/
theorem witness_ResultsStayValid :
    let s : State := { State.reset.complete none with turns := [.bus ⟨0x020, .write 7⟩] }
    s.params.Legal ∧ ResultsValid s ∧ (∃ t, step s = .next t) ∧ s.mover ≠ some .reset :=
  ⟨by decide, ⟨by decide, by decide, by decide⟩, ⟨_, rfl⟩, by decide⟩

theorem witness_ParametersNeverChange : ∃ t, step { issued 0x30 with turns := [.reset] } = .next t := ⟨_, rfl⟩

/-- A pending command with a WAIT loop of the host and a bus master's refused write before the core's turn. -/
def waiting : State :=
  { issued 0x1 with turns := [.host, .bus ⟨0x020, .write 0xFFFF⟩, .host, .host, .core], prog := pseudoWait 0 0 }

theorem witness_EveryIssuedCommandCompletes :
    waiting.busy = true ∧
    (∀ a, Turn.bus a ∈ waiting.turns → waiting.params.base ≤ a.address ∧ a.address < waiting.params.base + 0x1000) ∧
    Turn.host ∈ waiting.turns ∧
    ∀ stmt ∈ waiting.prog, ∀ u : State, u.params = waiting.params → u.prog = waiting.prog → ∀ f, hostStmt stmt u ≠ .fault f := by
  refine ⟨by decide, fun a ha => ?_, by decide, fun stmt hs u _ hp f => ?_⟩
  · obtain rfl : a = ⟨0x020, .write 0xFFFF⟩ := by simpa [waiting] using ha
    decide
  · have hj : hostJump u 0 = .next (u.withHostPc 0) := by rw [hostJump, hp]; rfl
    have hprog : waiting.prog = pseudoWait 0 0 := rfl
    rw [hprog, pseudoWait] at hs
    simp only [List.mem_cons, List.not_mem_nil, or_false] at hs
    obtain rfl | rfl | rfl := hs
    · simp [hostStmt]
    · simp [hostStmt, busAccess, evalLoc, regOffset]
    · simp only [hostStmt, hj]
      split <;> simp

/-- The smallest and the largest legal capacities. -/
theorem witness_WindowLayout :
    ({ defaultParams with keyBufBytes := 4, inBufBytes := 4 } : Params).Legal ∧
    ({ defaultParams with keyBufBytes := 256, inBufBytes := 1024 } : Params).Legal := by decide

theorem witness_BusErrorsChangeNothing :
    0x102 % 4 ≠ 0 ∧ (busRead State.reset 0x014).1 = .err ∧ (busWrite State.reset 0x040 1).1 = .err := by decide

/-- An output location while busy, any location while idle, an input location while busy. -/
theorem witness_BusReadsGiveValues :
    locate (issued 1).params 0x040 = some (.reg .result) ∧ (issued 1).busy = true ∧
    locate State.reset.params 0x8FC = some (.outWord 63) ∧ State.reset.busy = false ∧
    locate (issued 1).params 0x11C = some (.keyWord 7) := by decide

theorem witness_ReadsHaveNoSideEffect : State.reset.busy = false := by decide

/-- Word 0 and the last word of each buffer. -/
theorem witness_BusWritesStore :
    State.reset.params.Legal ∧ State.reset.busy = false ∧ 0 < State.reset.params.keyBufBytes / 4 ∧
    7 < State.reset.params.keyBufBytes / 4 ∧ 63 < State.reset.params.inBufBytes / 4 := by decide

theorem witness_ResetTurnClearsTheCore : ({ issued 1 with turns := [.reset] } : State).mover = some .reset := by decide

/-- A state in the middle of a run that meets the invariant: an STREAM is pending, and its step answers a next state. -/
theorem witness_EveryStepKeepsInvariant :
    let s := (streamState 32 8).issue 0x30
    Inv s ∧ ∃ t, step s = .next t := by
  refine ⟨⟨by decide, ⟨by decide, by decide, by decide⟩, ⟨by decide, by decide⟩, ⟨by decide, by decide⟩⟩, _, rfl⟩

end Sys2Proof.Tests
end

section
/-! PROOFS. The STATUS register: its 32 bits (10_state.md R19 to R22) and the refusal of a write to it (20_memory.md R40). -/

namespace Sys2Proof.Machine

/-- Every bit of STATUS at once: BUSY, DONE, two zeros, and from bit 4 upwards ERR with zeros above it (R19 to R22). -/
theorem statusWord_getLsbD (s : State) (k : Nat) :
    (statusWord s).getLsbD k =
      if k = 0 then s.busy else if k = 1 then s.doneBit else if k < 4 then false else s.err.getLsbD (k - 4) := by
  simp only [statusWord, BitVec.getLsbD_setWidth, BitVec.getLsbD_append]
  match k with
  | 0 => simp
  | 1 => simp
  | 2 => simp
  | 3 => simp
  | j + 4 =>
    have hbeyond : 4 ≤ j → s.err.getLsbD j = false := BitVec.getLsbD_of_ge _ _
    grind

theorem statusWord_err (s : State) : (statusWord s).extractLsb' 4 4 = s.err := by
  apply BitVec.eq_of_getLsbD_eq
  intro k hk
  rw [BitVec.getLsbD_extractLsb', statusWord_getLsbD, if_neg (by omega), if_neg (by omega), if_neg (by omega)]
  simp [hk]

theorem statusWord_low_zeros (s : State) : (statusWord s).extractLsb' 2 2 = 0 := by
  apply BitVec.eq_of_getLsbD_eq
  intro k hk
  rw [BitVec.getLsbD_extractLsb', statusWord_getLsbD, if_neg (by omega), if_neg (by omega), if_pos (by omega)]
  simp

/-- Bits 31:8 lie above the four bits of ERR. -/
theorem statusWord_high_zeros (s : State) : (statusWord s).extractLsb' 8 24 = 0 := by
  apply BitVec.eq_of_getLsbD_eq
  intro k _
  rw [BitVec.getLsbD_extractLsb', statusWord_getLsbD, if_neg (by omega), if_neg (by omega), if_neg (by omega),
    BitVec.getLsbD_of_ge _ _ (by omega)]
  simp

/-- STATUS stands at offset 0x004 for every choice of parameters (R36). -/
@[simp] theorem locate_status (p : Params) : locate p 0x004 = some (.reg .status) := rfl

/-- A write to a read-only location is a bus error and changes nothing, idle or busy (R40 (c)). -/
theorem busWrite_readOnly {s : State} {offset : Nat} {l : Loc} (v : Word) (hl : locate s.params offset = some l)
    (hro : locWritable l = false) : busWrite s offset v = (.err, s) := by
  rcases busWrite_cases s offset v with hrefused | ⟨l', hl', hw, -, -⟩
  · exact hrefused
  · obtain rfl : l = l' := Option.some.inj (hl.symm.trans hl')
    simp [hro] at hw

/-- Settles O50: each field is read off the bits of the word, and STATUS is a read-only location. -/
theorem statusWordLayout : Obligations.StatusWordLayout := by
  unfold Obligations.StatusWordLayout
  exact ⟨fun s => ⟨statusWord_getLsbD s 0, statusWord_getLsbD s 1, statusWord_err s, statusWord_low_zeros s,
      statusWord_high_zeros s⟩,
    fun s v => busWrite_readOnly v (locate_status s.params) rfl⟩

end Sys2Proof.Machine
end

section
/-! PROOFS. The bus of 20_memory.md: which access gets ERR (R40), and what an accepted write stores (R42). -/

namespace Sys2Proof.Machine

/-! ### Bus errors -/

/-- A misaligned offset names no location (R39). -/
theorem locate_eq_none_of_misaligned (p : Params) {offset : Nat} (h : offset % 4 ≠ 0) : locate p offset = none := by
  cases hl : locate p offset with
  | none => rfl
  | some l => exact absurd (locate_mapped hl).1 h

/-- The read-only locations of R40 (c). -/
theorem locWritable_eq_false_iff (l : Loc) :
    locWritable l = false ↔
      l = .reg .status ∨ l = .reg .outCount ∨ l = .reg .result ∨ (∃ i, l = .reg (.subkey i)) ∨
        (∃ i, l = .reg (.trace i)) ∨ ∃ w, l = .outWord w := by
  cases l with
  | reg r => cases r <;> simp [locWritable]
  | keyWord w => simp [locWritable]
  | inWord w => simp [locWritable]
  | outWord w => simp [locWritable]

theorem busRead_err_iff (s : State) (offset : Nat) : (busRead s offset).1 = .err ↔ locate s.params offset = none := by
  rcases busRead_cases s offset with ⟨hl, h⟩ | ⟨l, hl, ⟨-, -, h⟩ | ⟨-, h⟩⟩ <;> simp [h, hl]

theorem busRead_err_unchanged {s : State} {offset : Nat} (h : (busRead s offset).1 = .err) :
    (busRead s offset).2 = s := by
  rcases busRead_cases s offset with ⟨-, hr⟩ | ⟨l, hl, -⟩
  · rw [hr]
  · simp [(busRead_err_iff s offset).1 h] at hl

/-- A write to a writable location while idle is accepted and stores (R42). -/
theorem busWrite_accepted {s : State} {offset : Nat} {l : Loc} (v : Word) (hl : locate s.params offset = some l)
    (hw : locWritable l = true) (hidle : s.busy = false) : busWrite s offset v = (.ok, writeLoc s l v) := by
  simp [busWrite, hl, hw, hidle]

/-- A write gets ERR just while busy, at an unmapped offset, or at a location that is not writable (R40). -/
theorem busWrite_err_iff (s : State) (offset : Nat) (v : Word) :
    (busWrite s offset v).1 = .err ↔
      s.busy = true ∨ locate s.params offset = none ∨ ∃ l, locate s.params offset = some l ∧ locWritable l = false := by
  unfold busWrite
  cases hl : locate s.params offset with
  | none => simp
  | some l => cases hw : locWritable l <;> cases hb : s.busy <;> simp [hw]

theorem busWrite_err_unchanged {s : State} {offset : Nat} {v : Word} (h : (busWrite s offset v).1 = .err) :
    (busWrite s offset v).2 = s := by
  rcases busWrite_cases s offset v with hr | ⟨l, -, -, -, hr⟩
  · rw [hr]
  · simp [hr] at h

/-- Settles O45: the conditions of R40 are those of `busRead_err_iff` and `busWrite_err_iff`, with the read-only locations
listed. -/
theorem busErrorsChangeNothing : Obligations.BusErrorsChangeNothing := by
  unfold Obligations.BusErrorsChangeNothing
  refine ⟨fun p _ => locate_eq_none_of_misaligned p, busRead_err_iff, fun s offset v => ?_,
    fun _ _ => busRead_err_unchanged, fun _ _ _ => busWrite_err_unchanged⟩
  simp only [busWrite_err_iff, locWritable_eq_false_iff]

/-! ### Where the writable locations stand (R36) -/

theorem locate_regOffset (p : Params) (r : Reg) : locate p (regOffset r) = some (.reg r) := by
  cases r with
  | op i => fin_cases i <;> rfl
  | subkey i => fin_cases i <;> rfl
  | trace i => fin_cases i <;> rfl
  | _ => rfl

/-- No single register stands above RESULT. -/
theorem singleReg_eq_none {offset : Nat} (h : 0x040 < offset) : singleReg offset = none := by
  unfold singleReg
  split
  case h_7 => rfl
  all_goals omega

theorem wordIndex_start_add (start : Nat) {n w : Nat} (h : w < n) : wordIndex start n (start + 4 * w) = some ⟨w, h⟩ := by
  rw [wordIndex_eq_some]
  show start ≤ start + 4 * w ∧ (start + 4 * w - start) / 4 = w
  omega

/-- An offset before an array, or past its last word, is not in it. -/
theorem wordIndex_eq_none {start n offset : Nat} (h : offset < start ∨ start + 4 * n ≤ offset) :
    wordIndex start n offset = none :=
  dif_neg (by omega)

/-- An aligned offset from 0x100 on lies past every register, so only the buffers can hold it. -/
theorem locate_above_registers (p : Params) {offset : Nat} (ha : offset % 4 = 0) (h : 0x100 ≤ offset) :
    locate p offset =
      ((wordIndex 0x100 (p.keyBufBytes / 4) offset).map (fun w => Loc.keyWord w.val)).or
      (((wordIndex 0x400 (p.inBufBytes / 4) offset).map (fun w => Loc.inWord w.val)).or
      ((wordIndex 0x800 p.outBufWords offset).map (fun w => Loc.outWord w.val))) := by
  rw [locate, if_pos ha, singleReg_eq_none (by omega), wordIndex_eq_none (start := 0x020) (by omega),
    wordIndex_eq_none (start := 0x050) (by omega), wordIndex_eq_none (start := 0x060) (by omega)]
  rfl

theorem locate_keyWord (p : Params) {w : Nat} (hw : w < p.keyBufBytes / 4) :
    locate p (0x100 + 4 * w) = some (.keyWord w) := by
  rw [locate_above_registers p (by omega) (by omega), wordIndex_start_add _ hw]
  rfl

/-- KEY_BUF, of at most 256 bytes, ends before IN_BUF begins. -/
theorem locate_inWord {p : Params} {w : Nat} (hkey : p.keyBufBytes ≤ 256) (hw : w < p.inBufBytes / 4) :
    locate p (0x400 + 4 * w) = some (.inWord w) := by
  rw [locate_above_registers p (by omega) (by omega), wordIndex_eq_none (start := 0x100) (by omega),
    wordIndex_start_add _ hw]
  rfl

/-! ### Accepted writes -/

theorem byteOf_shiftRight_zero (v : Word) (k : Nat) : byteOf (v >>> k) 0 = v.extractLsb' k 8 := by
  apply BitVec.eq_of_getLsbD_eq
  intro j _
  simp [byteOf]

/-- t is s with the word v stored byte-wise at the window offset a, the lowest byte first, and nothing else changed (R38). -/
def WordStored (s : State) (a : Nat) (v : Word) (t : State) : Prop :=
  t = { s with mem := t.mem } ∧ (∀ i < 4, t.readByte (a + i) = v.extractLsb' (8 * i) 8) ∧
    ∀ x, x < a ∨ a + 4 ≤ x → t.readByte x = s.readByte x

theorem wordStored_writeBytes (s : State) (a : Nat) (v : Word) : WordStored s a v (s.writeBytes a 4 v) := by
  refine ⟨writeBytes_eq_withMem s a 4 v, fun i hi => ?_, fun x hx => ?_⟩
  · rw [readByte_writeBytes, if_pos (by omega), Nat.add_sub_cancel_left, byteOf_shiftRight_zero]
  · rw [readByte_writeBytes, if_neg (by omega)]

theorem busWrite_keyWord {s : State} {w : Nat} (v : Word) (hidle : s.busy = false) (hw : w < s.params.keyBufBytes / 4) :
    ∃ t, busWrite s (0x100 + 4 * w) v = (.ok, t) ∧ WordStored s (0x100 + 4 * w) v t :=
  ⟨_, busWrite_accepted v (locate_keyWord s.params hw) rfl hidle, wordStored_writeBytes s _ v⟩

theorem busWrite_inWord {s : State} {w : Nat} (v : Word) (hkey : s.params.keyBufBytes ≤ 256) (hidle : s.busy = false)
    (hw : w < s.params.inBufBytes / 4) :
    ∃ t, busWrite s (0x400 + 4 * w) v = (.ok, t) ∧ WordStored s (0x400 + 4 * w) v t :=
  ⟨_, busWrite_accepted v (locate_inWord hkey hw) rfl hidle, wordStored_writeBytes s _ v⟩

theorem busWrite_reg {s : State} {r : Reg} (v : Word) (hidle : s.busy = false) (hw : locWritable (.reg r) = true) :
    busWrite s (regOffset r) v = (.ok, writeLoc s (.reg r) v) :=
  busWrite_accepted v (locate_regOffset s.params r) hw hidle

/-- Settles O48: a write to each writable register is its one update, and a buffer word is stored as its four bytes. Of the
legal parameters it takes only that KEY_BUF ends before IN_BUF begins. -/
theorem busWritesStore : Obligations.BusWritesStore := by
  unfold Obligations.BusWritesStore
  intro s v ⟨_, _, hkey, _⟩ hidle
  exact ⟨busWrite_reg (r := .cmd) v hidle rfl, busWrite_reg (r := .keyLen) v hidle rfl,
    busWrite_reg (r := .inLen) v hidle rfl, fun i => busWrite_reg (r := .op i) v hidle rfl,
    fun _ hw => busWrite_keyWord v hidle hw, fun _ hw => busWrite_inWord v hkey hidle hw⟩

end Sys2Proof.Machine
end

section
/-! PROOFS. The command encoding of 30_encoding.md: the row of the opcode table a word selects (R57, R58), the illegal words
(R59), and the assembler (R61). -/

namespace Sys2Proof

/-! ### The row a word selects (R57, R58) -/

/-- "A word w selects a row when `(w & mask) == match`" (R57). -/
def Selects (w : Word) (r : OpcodeRow) : Prop := w &&& r.mask = r.bits

/-- Under each other's masks the two rows ask for different bits. -/
def OpcodeRow.Apart (r q : OpcodeRow) : Prop := r.bits &&& q.mask ≠ q.bits &&& r.mask

/-- "At most one row matches any word" (R57), said of the table itself. -/
theorem opcodeRows_apart : opcodeRows.Pairwise OpcodeRow.Apart := by
  simp [opcodeRows, OpcodeRow.Apart]

theorem OpcodeRow.Apart.not_selects {w : Word} {r q : OpcodeRow} (h : q.Apart r) (hr : Selects w r) : ¬ Selects w q := by
  intro hq
  refine h ?_
  rw [← hr, ← hq]
  ac_rfl

/-- No word selects two rows of a list whose rows stand apart, so the first one selected is the only one. -/
theorem find?_selects_of_apart {w : Word} {r : OpcodeRow} {rows : List OpcodeRow}
    (hapart : rows.Pairwise OpcodeRow.Apart) (hr : r ∈ rows) (hw : Selects w r) :
    rows.find? (fun q => w &&& q.mask == q.bits) = some r := by
  induction hapart with
  | nil => simp at hr
  | @cons q rest hq _ ih =>
    rcases List.mem_cons.1 hr with rfl | hr
    · exact List.find?_cons_of_pos (beq_iff_eq.2 hw)
    · have hskip : ¬ Selects w q := (hq r hr).not_selects hw
      rw [List.find?_cons_of_neg (by simpa [Selects] using hskip)]
      exact ih hr

theorem decode_eq_ok_iff (w : Word) (i : Instr) :
    decode w = .ok i ↔ ∃ r ∈ opcodeRows, Selects w r ∧ r.make (amtField w) = i := by
  constructor
  · intro h
    unfold decode at h
    split at h
    next r hr => exact ⟨r, List.mem_of_find?_eq_some hr, by simpa [Selects] using List.find?_some hr, Except.ok.inj h⟩
    next => cases h
  · rintro ⟨r, hr, hw, rfl⟩
    rw [decode, find?_selects_of_apart opcodeRows_apart hr hw]

theorem decode_error_iff (w : Word) : (∃ k, decode w = .error k) ↔ ∀ r ∈ opcodeRows, ¬ Selects w r := by
  cases hd : decode w with
  | ok i =>
    obtain ⟨r, hr, hw, -⟩ := (decode_eq_ok_iff w i).1 hd
    simpa using ⟨r, hr, hw⟩
  | error k =>
    refine iff_of_true ⟨k, rfl⟩ fun r hr hw => ?_
    have hok := (decode_eq_ok_iff w _).2 ⟨r, hr, hw, rfl⟩
    simp [hd] at hok

/-- Settles O2: each command is made by one row alone, so `decode_eq_ok_iff` leaves the condition of that row. -/
theorem decodeFollowsOpcodeTable : Obligations.DecodeFollowsOpcodeTable := by
  unfold Obligations.DecodeFollowsOpcodeTable
  intro w
  simp only [decode_error_iff, decode_eq_ok_iff]
  simp [opcodeRows, Selects, amtField, eq_comm]

/-! ### The illegal words (R59) -/

/-- A word is its three fields (R54). -/
theorem word_eq_iff_fields (v w : Word) :
    v = w ↔ rsvField v = rsvField w ∧ amtField v = amtField w ∧ opcField v = opcField w := by
  have hfields (u : Word) : rsvField u ++ (amtField u ++ opcField u) = u := by
    have hlow : amtField u ++ opcField u = u.extractLsb' 0 13 :=
      BitVec.extractLsb'_append_extractLsb'_eq_extractLsb' rfl
    rw [hlow]
    exact BitVec.extractLsb'_append_extractLsb' (w := 19) (len := 13)
  refine ⟨by rintro rfl; simp, fun ⟨hrsv, hamt, hopc⟩ => ?_⟩
  rw [← hfields v, ← hfields w, hrsv, hamt, hopc]

/-- A row is selected field by field. -/
theorem selects_iff_fields (w : Word) (r : OpcodeRow) :
    Selects w r ↔ rsvField w &&& rsvField r.mask = rsvField r.bits ∧ amtField w &&& amtField r.mask = amtField r.bits ∧
      opcField w &&& opcField r.mask = opcField r.bits := by
  simp only [Selects, word_eq_iff_fields, rsvField, amtField, opcField, BitVec.extractLsb'_and]

/-- The fields of the table's rows: every mask covers RSV and OPC, and AMT but for the two rotates; every row asks for RSV and
AMT to be 0 where its mask covers them. -/
theorem opcodeRows_fields : ∀ r ∈ opcodeRows,
    rsvField r.mask = BitVec.allOnes 19 ∧ opcField r.mask = BitVec.allOnes 8 ∧
    amtField r.mask = (if opcField r.bits = 0x04 ∨ opcField r.bits = 0x05 then 0#5 else BitVec.allOnes 5) ∧
    rsvField r.bits = 0 ∧ amtField r.bits = 0 := by
  decide

theorem selects_opcodeRow_iff (w : Word) {r : OpcodeRow} (hr : r ∈ opcodeRows) :
    Selects w r ↔
      rsvField w = 0 ∧ (amtField w = 0 ∨ opcField w = 0x04 ∨ opcField w = 0x05) ∧ opcField w = opcField r.bits := by
  obtain ⟨hrsv, hopc, hamt, hrsv0, hamt0⟩ := opcodeRows_fields r hr
  rw [selects_iff_fields, hrsv, hopc, hamt, hrsv0, hamt0, BitVec.and_allOnes, BitVec.and_allOnes]
  by_cases hrotate : opcField r.bits = 0x04 ∨ opcField r.bits = 0x05
  · rw [if_pos hrotate, BitVec.and_zero]
    grind
  · rw [if_neg hrotate, BitVec.and_allOnes]
    grind

/-- The ten opcodes are the OPC fields of the rows (R57). -/
theorem opcodes_of_opcodeRows :
    opcodeRows.map (fun r => opcField r.bits) = [0x01, 0x02, 0x03, 0x04, 0x05, 0x10, 0x20, 0x21, 0x22, 0x30] := by
  decide

/-- The legal words, by their fields. -/
theorem selects_some_opcodeRow_iff (w : Word) :
    (∃ r ∈ opcodeRows, Selects w r) ↔
      rsvField w = 0 ∧ (amtField w = 0 ∨ opcField w = 0x04 ∨ opcField w = 0x05) ∧
        opcField w ∈ opcodeRows.map (fun r => opcField r.bits) := by
  constructor
  · rintro ⟨r, hr, hw⟩
    obtain ⟨hrsv, hamt, hopc⟩ := (selects_opcodeRow_iff w hr).1 hw
    exact ⟨hrsv, hamt, List.mem_map.2 ⟨r, hr, hopc.symm⟩⟩
  · rintro ⟨hrsv, hamt, hopc⟩
    obtain ⟨r, hr, hopc⟩ := List.mem_map.1 hopc
    exact ⟨r, hr, (selects_opcodeRow_iff w hr).2 ⟨hrsv, hamt, hopc.symm⟩⟩

/-- The three kinds of illegal word (R59). -/
theorem decode_error_iff_fields (w : Word) :
    (∃ k, decode w = .error k) ↔
      opcField w ∉ ([0x01, 0x02, 0x03, 0x04, 0x05, 0x10, 0x20, 0x21, 0x22, 0x30] : List (BitVec 8)) ∨
      rsvField w ≠ 0 ∨ (amtField w ≠ 0 ∧ opcField w ≠ 0x04 ∧ opcField w ≠ 0x05) := by
  have hlegal := selects_some_opcodeRow_iff w
  rw [opcodes_of_opcodeRows] at hlegal
  calc (∃ k, decode w = .error k)
    _ ↔ ¬ ∃ r ∈ opcodeRows, Selects w r := by rw [decode_error_iff]; push Not; rfl
    _ ↔ _ := by rw [hlegal]; tauto

/-- The completion step on an illegal word (R105). -/
theorem Machine.coreStep_of_decode_error {s : Machine.State} {k : Illegal} (hbusy : s.busy = true)
    (hk : decode s.cmd = .error k) : Machine.coreStep s = .next (s.complete (some .illegalCommand)) := by
  simp [Machine.coreStep, hbusy, hk]

/-- Settles O4: a word that selects no row has one of the three kinds, and completing with IllegalCommand writes STATUS alone. -/
theorem illegalWordsRaiseIllegalCommand : Obligations.IllegalWordsRaiseIllegalCommand := by
  unfold Obligations.IllegalWordsRaiseIllegalCommand
  exact ⟨decode_error_iff_fields, fun _ _ => Machine.coreStep_of_decode_error⟩

/-! ### The assembler (R61) -/

theorem Mnemonic.takesAmount_iff (m : Mnemonic) : m.takesAmount = true ↔ m = .ROTR ∨ m = .ROTL := by
  cases m <;> decide

theorem Source.wf_operand_iff (m : Mnemonic) (n : Int) :
    (⟨m, some n⟩ : Source).wf = true ↔ (m = .ROTR ∨ m = .ROTL) ∧ 0 ≤ n ∧ n ≤ 31 := by
  simp [Source.wf, Mnemonic.takesAmount_iff, and_assoc]

theorem assemble_eq_none_iff (c : Source) : assemble c = none ↔ ¬ c.wf = true := by
  simp [assemble]

theorem assemble_of_wf {c : Source} (h : c.wf = true) :
    assemble c = some (c.mnemonic.instr (BitVec.ofInt 5 (c.operand.getD 0))) := if_pos h

/-- A rotate with an amount in 0..31 is accepted, with that amount in AMT. -/
theorem assemble_rotate {m : Mnemonic} {n : Nat} (hm : m = .ROTR ∨ m = .ROTL) (hn : n ≤ 31) :
    assemble ⟨m, some n⟩ = some (m.instr (BitVec.ofNat 5 n)) := by
  rw [assemble_of_wf ((Source.wf_operand_iff m n).2 ⟨hm, by omega⟩), Option.getD_some, BitVec.ofInt_natCast]

/-- Settles O5: the assembler accepts the well-formed lines of R61, and the amount fits its five bits. -/
theorem assemblerAcceptsAndRefuses : Obligations.AssemblerAcceptsAndRefuses := by
  unfold Obligations.AssemblerAcceptsAndRefuses
  refine ⟨fun n hn => ?_, fun n hn => ?_, rfl, rfl, fun m n hr hl => ?_, rfl, rfl, rfl, rfl, rfl, rfl, rfl, rfl⟩
  · have hwiden : (BitVec.ofNat 5 n).setWidth 32 = BitVec.ofNat 32 n :=
      BitVec.setWidth_ofNat_of_le_of_lt (by decide) (by omega)
    rw [assemble_rotate (.inl rfl) hn, assemble_rotate (.inr rfl) hn, ← hwiden]
    exact ⟨rfl, rfl⟩
  · simp only [assemble_eq_none_iff, Source.wf_operand_iff]
    omega
  · rw [assemble_eq_none_iff, Source.wf_operand_iff]
    exact fun ⟨hm, _⟩ => hm.elim hr hl

end Sys2Proof
end

section
/-! PROOFS. The units of 40_primitives.md section 1: the adder and the XOR unit (R65, R69), the two rotations (R66), and the
multiplier as a sum of rotations (R67). -/

namespace Sys2Proof.Machine

/-! ### The adder and the XOR unit (R65, R69) -/

theorem toNat_add32 (a b : Word) : (add32 a b).toNat = (a.toNat + b.toNat) % 2 ^ 32 := BitVec.toNat_add a b

theorem add32_eq_ofNat (a b : Word) : add32 a b = BitVec.ofNat 32 ((a.toNat + b.toNat) % 2 ^ 32) := by
  rw [← toNat_add32, BitVec.ofNat_toNat, BitVec.setWidth_eq]

theorem getLsbD_xor32 (a b : Word) (k : Nat) : (xor32 a b).getLsbD k = (a.getLsbD k ^^ b.getLsbD k) :=
  BitVec.getLsbD_xor

/-- Settles O6: the adder is the library's sum of bit vectors and the XOR unit its exclusive or, so the laws are the
library's. -/
theorem adderAndXorLaws : Obligations.AdderAndXorLaws := by
  unfold Obligations.AdderAndXorLaws
  exact ⟨toNat_add32, BitVec.toInt_add, rfl, BitVec.add_comm, BitVec.add_assoc,
    fun a => ⟨BitVec.add_zero a, BitVec.zero_add a⟩, getLsbD_xor32, BitVec.xor_comm, BitVec.xor_assoc,
    fun _ => ⟨BitVec.xor_zero, BitVec.zero_xor, BitVec.xor_self⟩⟩

/-! ### The rotations bit by bit, and their amounts (R66) -/

@[simp] theorem rotr32_zero (v : Word) : rotr32 v 0 = v := rfl
@[simp] theorem rotl32_zero (v : Word) : rotl32 v 0 = v := rfl

/-- Bit k of a right rotation is the bit n places above it, counted modulo 32. -/
theorem getLsbD_rotr32 (v : Word) (n : BitVec 5) {k : Nat} (hk : k < 32) :
    (rotr32 v n).getLsbD k = v.getLsbD ((k + n.toNat) % 32) := by
  have hn : n.toNat < 32 := n.isLt
  rw [rotr32_eq_rotateRight, BitVec.getLsbD_rotateRight_of_lt hn]
  by_cases h : k < 32 - n.toNat
  · have hplace : (k + n.toNat) % 32 = n.toNat + k := by omega
    simp [h, hplace]
  · have hplace : (k + n.toNat) % 32 = k - (32 - n.toNat) := by omega
    simp [h, hk, hplace]

/-- A left rotation takes bit k to the place n above it, counted modulo 32. -/
theorem getLsbD_rotl32_add (v : Word) (n : BitVec 5) {k : Nat} (hk : k < 32) :
    (rotl32 v n).getLsbD ((k + n.toNat) % 32) = v.getLsbD k := by
  have hn : n.toNat < 32 := n.isLt
  rw [rotl32_eq_rotateLeft, BitVec.getLsbD_rotateLeft_of_le hn]
  by_cases h : k + n.toNat < 32
  · have hplace : (k + n.toNat) % 32 = k + n.toNat := Nat.mod_eq_of_lt h
    simp [hplace, h]
  · have hplace : (k + n.toNat) % 32 = k + n.toNat - 32 := by omega
    have hlow : k + n.toNat - 32 < n.toNat := by omega
    have hback : 32 - n.toNat + (k + n.toNat - 32) = k := by omega
    simp [hplace, hlow, hback]

/-- Rotating twice to the right adds the amounts, on their five bits modulo 32. -/
theorem rotr32_rotr32 (v : Word) (m n : BitVec 5) : rotr32 (rotr32 v m) n = rotr32 v (m + n) := by
  apply BitVec.eq_of_getLsbD_eq
  intro k hk
  have hplace : ((k + n.toNat) % 32 + m.toNat) % 32 = (k + (m + n).toNat) % 32 := by
    rw [BitVec.toNat_add]
    omega
  rw [getLsbD_rotr32 _ _ hk, getLsbD_rotr32 _ _ (Nat.mod_lt _ (by decide)), getLsbD_rotr32 _ _ hk, hplace]

/-- A right rotation undoes the left rotation by the same amount. -/
theorem rotr32_rotl32_same (v : Word) (n : BitVec 5) : rotr32 (rotl32 v n) n = v := by
  apply BitVec.eq_of_getLsbD_eq
  intro k hk
  rw [getLsbD_rotr32 _ _ hk, getLsbD_rotl32_add _ _ hk]

theorem rotr32_rotr32_neg (v : Word) (n : BitVec 5) : rotr32 (rotr32 v n) (-n) = v := by
  rw [rotr32_rotr32, BitVec.add_right_neg]
  rfl

theorem rotl32_eq_rotr32_neg (v : Word) (n : BitVec 5) : rotl32 v n = rotr32 v (-n) := by
  rw [← rotr32_rotr32_neg (rotl32 v n) n, rotr32_rotl32_same]

theorem rotl32_rotl32 (v : Word) (m n : BitVec 5) : rotl32 (rotl32 v m) n = rotl32 v (m + n) := by
  simp only [rotl32_eq_rotr32_neg, rotr32_rotr32, neg_add]

/-! ### The laws of the rotations (R66) -/

theorem iterate_rotr32_one (v : Word) (i : Nat) : (fun x => rotr32 x 1)^[i] v = rotr32 v (BitVec.ofNat 5 i) := by
  induction i with
  | zero => rfl
  | succ i ih =>
    rw [Function.iterate_succ_apply', ih, rotr32_rotr32, BitVec.ofNat_add]
    rfl

theorem bijective_rotr32 (n : BitVec 5) : Function.Bijective (fun v => rotr32 v n) := by
  refine Function.bijective_iff_has_inverse.2 ⟨fun v => rotr32 v (-n), fun v => rotr32_rotr32_neg v n, fun v => ?_⟩
  have hback := rotr32_rotr32_neg v (-n)
  rwa [BitVec.neg_neg] at hback

/-- Counting up from n modulo 32 is the rotation of the list of all bit places. -/
theorem range_rotate_eq_map (n : Nat) : (List.range 32).rotate n = (List.range 32).map (fun k => (k + n) % 32) := by
  apply List.ext_getElem
  · simp
  · intro k _ _
    simp [List.getElem_rotate]

/-- The rotated word has the bits of v at the same places in another order. -/
theorem popcount_rotr32 (v : Word) (n : BitVec 5) : popcount (rotr32 v n) = popcount v := by
  calc popcount (rotr32 v n)
    _ = (List.range 32).countP (fun k => v.getLsbD ((k + n.toNat) % 32)) :=
      List.countP_congr fun k hk => by rw [getLsbD_rotr32 v n (List.mem_range.1 hk)]
    _ = ((List.range 32).rotate n.toNat).countP (fun i => v.getLsbD i) := by
      rw [range_rotate_eq_map, List.countP_map]
      rfl
    _ = popcount v := (List.rotate_perm _ _).countP_eq _

/-- Settles O7: a left rotation is a right one by the opposite amount and amounts add modulo 32, which gives the laws of
both. -/
theorem rotationLaws : Obligations.RotationLaws := by
  unfold Obligations.RotationLaws
  refine ⟨fun v => ⟨rotr32_zero v, rotl32_zero v⟩, fun v n hn => ⟨if_neg hn, if_neg hn⟩,
    fun v => iterate_rotr32_one v 32, fun v => ⟨rotr32_rotr32 v 1 31, rotl32_rotl32 v 1 31⟩, fun v n => ?_,
    fun n => ⟨bijective_rotr32 n, ?_⟩, fun v n => ⟨popcount_rotr32 v n, ?_⟩⟩
  · rw [rotl32_eq_rotr32_neg]
    exact congrArg _ (BitVec.zero_sub n).symm
  · simpa only [rotl32_eq_rotr32_neg] using bijective_rotr32 (-n)
  · rw [rotl32_eq_rotr32_neg, popcount_rotr32]

/-! ### The multiplier as a sum of rotations (R67) -/

/-- The multiplier's shifted copy of a after i turns: a rotated by i in the direction MUL_ROT_DIR. -/
def rotBy (dir : RotDir) (a : Word) (i : Nat) : Word :=
  match dir with
  | .left => a.rotateLeft i
  | .right => a.rotateRight i

/-- One addend of the product: the copy of a rotated by i, where bit i of b is set. -/
def addRotated (dir : RotDir) (a b acc : Word) (i : Nat) : Word := if b.getLsbD i then acc + rotBy dir a i else acc

theorem rotateLeft_eq_rotl32 (a : Word) (i : Nat) : a.rotateLeft i = rotl32 a (BitVec.ofNat 5 i) := by
  rw [rotl32_eq_rotateLeft, BitVec.toNat_ofNat]
  exact BitVec.rotateLeft_mod_eq_rotateLeft.symm

theorem rotateRight_eq_rotr32 (a : Word) (i : Nat) : a.rotateRight i = rotr32 a (BitVec.ofNat 5 i) := by
  rw [rotr32_eq_rotateRight, BitVec.toNat_ofNat]
  exact BitVec.rotateRight_mod_eq_rotateRight.symm

theorem rotBy_zero (dir : RotDir) (a : Word) : rotBy dir a 0 = a := by
  cases dir with
  | left => exact rotateLeft_eq_rotl32 a 0
  | right => exact rotateRight_eq_rotr32 a 0

theorem rotOne_rotBy (dir : RotDir) (a : Word) (i : Nat) : rotOne dir (rotBy dir a i) = rotBy dir a (i + 1) := by
  cases dir with
  | left =>
    simp only [rotOne, rotBy, rotateLeft_eq_rotl32, rotl32_rotl32, BitVec.ofNat_add]
    rfl
  | right =>
    simp only [rotOne, rotBy, rotateRight_eq_rotr32, rotr32_rotr32, BitVec.ofNat_add]
    rfl

/-- The loop from bit i on adds the rotations of a at the bits i, i + 1, and so on. -/
theorem mulLoop_eq_foldl (dir : RotDir) (a b acc : Word) (steps i : Nat) :
    mulLoop dir b steps i acc (rotBy dir a i) = (List.range' i steps).foldl (addRotated dir a b) acc := by
  induction steps generalizing i acc with
  | zero => rfl
  | succ n ih =>
    rw [mulLoop, rotOne_rotBy, ih, List.range'_succ, List.foldl_cons]
    rfl

theorem mul32_eq_foldl (dir : RotDir) (a b : Word) : mul32 dir a b = (List.range 32).foldl (addRotated dir a b) 0 := by
  rw [List.range_eq_range', ← mulLoop_eq_foldl, rotBy_zero, mul32]

end Sys2Proof.Machine
end

section
/-! PROOFS. The commands of 40_primitives.md section 2, each with its whole next state (R70 to R74). -/

namespace Sys2Proof

/-- The decoder reads back the word of every command, a rotate with each of its 32 amounts (R57, R61). -/
theorem decode_encode (i : Instr) : decode (encode i) = .ok i := by
  cases i with
  | rotr n => revert n; decide
  | rotl n => revert n; decide
  | _ => rfl

end Sys2Proof

namespace Sys2Proof.Machine

/-- A primitive command writes RESULT, and completes without an error. -/
theorem finish_withResult (s : State) (r : Word) :
    finish (s.withResult r) = .next { s with result := r, busy := false, doneBit := true, err := 0 } := rfl

/-- Settles O11: the adder's sum, read as a number. -/
theorem addCompletes : Obligations.AddCompletes := by
  unfold Obligations.AddCompletes
  refine ⟨decode_encode .add, fun s => ?_⟩
  rw [← add32_eq_ofNat]
  exact finish_withResult s _

/-- Settles O12: the multiplier's loop is the sum of rotations of `mul32_eq_foldl`. -/
theorem mulCompletes : Obligations.MulCompletes := by
  unfold Obligations.MulCompletes
  refine ⟨decode_encode .mul, fun s => ?_⟩
  rw [exec, execMul, mul32_eq_foldl]
  exact finish_withResult s _

/-- Settles O13: RESULT is the XOR unit's word. -/
theorem xorCompletes : Obligations.XorCompletes := by
  unfold Obligations.XorCompletes
  exact ⟨decode_encode .xor, fun s => ⟨_, finish_withResult s _, fun k _ => getLsbD_xor32 _ _ k⟩⟩

/-- Settles O14: RESULT is the right rotation, read bit by bit. -/
theorem rotrCompletes : Obligations.RotrCompletes := by
  unfold Obligations.RotrCompletes
  exact fun n => ⟨decode_encode (.rotr n), fun s => ⟨_, finish_withResult s _, fun _ hk => getLsbD_rotr32 _ n hk⟩⟩

/-- Settles O15: RESULT is the left rotation, read bit by bit. -/
theorem rotlCompletes : Obligations.RotlCompletes := by
  unfold Obligations.RotlCompletes
  exact fun n => ⟨decode_encode (.rotl n), fun s => ⟨_, finish_withResult s _, fun _ hk => getLsbD_rotl32_add _ n hk⟩⟩

end Sys2Proof.Machine
end

section
/-! PROOFS. The subkey extractor of 41_key_schedule.md: the key check case by case (R76), the SubkeySet as bytes (R75), and
KEYSCHED with its whole next state (R78). -/

namespace Sys2Proof.Machine

/-! ### The key check (R76); that it passes otherwise is `keyCheck_eq_none_iff` -/

theorem keyCheck_of_past_buffer {s : State} (h : s.params.keyBufBytes < s.keyLen.toNat) :
    keyCheck s = some .badLength := if_pos h

theorem keyCheck_of_short {s : State} (hfits : s.keyLen.toNat ≤ s.params.keyBufBytes) (hshort : s.keyLen.toNat < 4) :
    keyCheck s = some .invalidKeyLength := by
  rw [keyCheck, if_neg hfits.not_gt, if_pos hshort]

/-! ### The command (R75, R78) -/

theorem deriveSubkeys_eq_keyBytes (s : State) :
    deriveSubkeys s = #v[(s.readByte 0x100).setWidth 32, (s.readByte 0x101).setWidth 32,
      (s.readByte 0x102).setWidth 32, (s.readByte 0x103).setWidth 32] := by
  simp only [deriveSubkeys, memRead, bufOffset, readBytes_one, zext32]

/-- A KEYSCHED whose key check fails writes nothing but STATUS (R104). -/
theorem exec_keysched_of_keyCheck_some {s : State} {e : CmdError} (h : keyCheck s = some e) :
    exec .keysched s = .next { s with busy := false, doneBit := true, err := errorCode e } := by
  rw [exec, execKeysched, h]
  rfl

theorem exec_keysched_of_keyCheck_none {s : State} (h : keyCheck s = none) :
    exec .keysched s = .next { s with subkey := deriveSubkeys s, busy := false, doneBit := true, err := 0 } := by
  rw [exec, execKeysched, h]
  rfl

/-- Settles O16: each clause is one outcome of the key check. -/
theorem keyschedCompletes : Obligations.KeyschedCompletes := by
  unfold Obligations.KeyschedCompletes
  refine ⟨decode_encode .keysched, fun s => ⟨fun hpast => ?badLength, fun hfits hshort => ?invalidKeyLength,
    fun hlong hfits => ?valid⟩⟩
  case badLength => exact exec_keysched_of_keyCheck_some (keyCheck_of_past_buffer hpast)
  case invalidKeyLength => exact exec_keysched_of_keyCheck_some (keyCheck_of_short hfits hshort)
  case valid =>
    rw [← deriveSubkeys_eq_keyBytes]
    exact exec_keysched_of_keyCheck_none ((keyCheck_eq_none_iff s).2 ⟨hfits, hlong⟩)

end Sys2Proof.Machine
end

section
/-! PROOFS. The round engine of 42_round_transform.md: the multiplier at zero and one (R68), the two mix variants and their
commands (R80 to R83), and the block function step by step with ENCBLK (R85, R86). -/

namespace Sys2Proof.Machine

/-! ### The multiplier at zero and one (R68) -/

/-- The multiplier's loop adds nothing once no bit of b is left to scan. -/
theorem mulLoop_of_no_bits (dir : RotDir) {b : Word} {i : Nat} (h : ∀ j, i ≤ j → b.getLsbD j = false)
    (steps : Nat) (acc s : Word) : mulLoop dir b steps i acc s = acc := by
  induction steps generalizing i s with
  | zero => rfl
  | succ n ih =>
    rw [mulLoop, h i le_rfl]
    exact ih (fun j hj => h j (by omega)) _

@[simp] theorem mul32_zero (dir : RotDir) (a : Word) : mul32 dir a 0#32 = 0#32 :=
  mulLoop_of_no_bits dir (fun _ _ => BitVec.getLsbD_zero) 32 0 a

/-- Only bit 0 of 1 is set, so the first turn of the loop adds a and no later turn adds anything. -/
theorem mulLoop_one (dir : RotDir) (a : Word) (steps : Nat) : mulLoop dir 1#32 (steps + 1) 0 0#32 a = a := by
  have hbits : ∀ j, 1 ≤ j → (1#32).getLsbD j = false := by
    intro j hj
    rw [BitVec.getLsbD_one, decide_eq_false (by omega : j ≠ 0), Bool.and_false]
  rw [mulLoop, mulLoop_of_no_bits dir hbits]
  exact BitVec.zero_add a

@[simp] theorem mul32_one (dir : RotDir) (a : Word) : mul32 dir a 1#32 = a := mulLoop_one dir a 31

/-! ### The mix variants and their commands (R80 to R83) -/

theorem mixForward_eq (dir : RotDir) (n1 n2 n3 n4 k : Word) :
    mixForward dir n1 n2 n3 n4 k = (mul32 dir n1 k + n2 + n3) ^^^ n4 := rfl

theorem mixFinal_eq (dir : RotDir) (n1 n2 n3 n4 k : Word) :
    mixFinal dir n1 n2 n3 n4 k = (mul32 dir n1 k ^^^ n2) + n3 + n4 := rfl

@[simp] theorem mixForward_zero (dir : RotDir) (n1 n2 n3 n4 : Word) :
    mixForward dir n1 n2 n3 n4 0#32 = (n2 + n3) ^^^ n4 := by
  rw [mixForward_eq, mul32_zero, BitVec.zero_add]

@[simp] theorem mixForward_one (dir : RotDir) (n1 n2 n3 n4 : Word) :
    mixForward dir n1 n2 n3 n4 1#32 = (n1 + n2 + n3) ^^^ n4 := by
  rw [mixForward_eq, mul32_one]

@[simp] theorem mixFinal_zero (dir : RotDir) (n1 n2 n3 n4 : Word) :
    mixFinal dir n1 n2 n3 n4 0#32 = n2 + n3 + n4 := by
  rw [mixFinal_eq, mul32_zero, BitVec.zero_xor]

@[simp] theorem mixFinal_one (dir : RotDir) (n1 n2 n3 n4 : Word) :
    mixFinal dir n1 n2 n3 n4 1#32 = (n1 ^^^ n2) + n3 + n4 := by
  rw [mixFinal_eq, mul32_one]

/-- Settles O18: RESULT is mix_forward, which multiplies by 0 and by 1 in the corner cases. -/
theorem mixfCompletes : Obligations.MixfCompletes := by
  unfold Obligations.MixfCompletes
  refine ⟨decode_encode .mixf, fun s => ⟨_, finish_withResult s _, mixForward_eq .., fun hk => ?zero, fun hk => ?one⟩⟩
  case zero =>
    rw [hk]
    exact mixForward_zero ..
  case one =>
    rw [hk]
    exact mixForward_one ..

/-- Settles O19: RESULT is mix_final, which multiplies by 0 and by 1 in the corner cases. -/
theorem mixlCompletes : Obligations.MixlCompletes := by
  unfold Obligations.MixlCompletes
  refine ⟨decode_encode .mixl, fun s => ⟨_, finish_withResult s _, mixFinal_eq .., fun hk => ?zero, fun hk => ?one⟩⟩
  case zero =>
    rw [hk]
    exact mixFinal_zero ..
  case one =>
    rw [hk]
    exact mixFinal_one ..

/-! ### The block function and ENCBLK (R85, R86) -/

/-- The output of a block is its eighth step result. -/
theorem encryptBlock_fst (p : Params) (x z : Words4) : (encryptBlock p x z).1 = (encryptBlock p x z).2[7] := rfl

/-- N1 of step i + 1: the block word `first` in step 1, in every other step the result in r of the step before (R84, R85). -/
def stepInput (p : Params) (x : Words4) (r : Vector Word 8) (i : Fin 8) : Word :=
  if i.val = 0 then x[p.schedule.first] else r[i.val - 1]

/-- Every step result is its step of the previous one: the results are fed forward. -/
theorem encryptBlock_snd_getElem (p : Params) (x z : Words4) (i : Fin 8) :
    (encryptBlock p x z).2[i] = blockStep p x z i (stepInput p x (encryptBlock p x z).2 i) := by
  fin_cases i <;> rfl

theorem exec_encblk (s : State) :
    exec .encblk s = .next { s with
      trace := (encryptBlock s.params (opBlock s) (opSubkeys s)).2,
      result := (encryptBlock s.params (opBlock s) (opSubkeys s)).1,
      busy := false, doneBit := true, err := 0 } := rfl

/-- Settles O21: TRACE holds the step results of the block function, each the `blockStep` of the one before it, which is the
statement's formula with its mix variant unfolded. -/
theorem encblkCompletes : Obligations.EncblkCompletes := by
  unfold Obligations.EncblkCompletes
  refine ⟨decode_encode .encblk, fun s => ⟨(encryptBlock s.params (opBlock s) (opSubkeys s)).2, ?_, fun i => ?_⟩⟩
  · rw [exec_encblk, encryptBlock_fst]
  · exact encryptBlock_snd_getElem s.params (opBlock s) (opSubkeys s) i

end Sys2Proof.Machine
end

section
/-! PROOFS. The stream controller of 43_pipeline.md: the outcomes of its validation (R90, R95, R96), the state STREAM ends in
(R89, R93, R94), and what that state depends on (R99). -/

namespace Sys2Proof.Machine

/-! ### Validation (R90, R95) -/

/-- The block count of R95 in both directions; `blockCount_ok` is the first. -/
theorem blockCount_eq_ok_iff (pad : PadPolicy) (len n : Nat) :
    blockCount pad len = .ok n ↔
      (len % 4 = 0 ∧ n = len / 4) ∨
      (len % 4 ≠ 0 ∧ pad = .zeroPad ∧ n = (len + 3) / 4) ∨
      (len % 4 ≠ 0 ∧ pad = .truncate ∧ n = (len - len % 4) / 4) := by
  refine ⟨blockCount_ok, ?_⟩
  rintro (⟨hwhole, rfl⟩ | ⟨hpart, rfl, rfl⟩ | ⟨hpart, rfl, rfl⟩)
  · exact if_pos hwhole
  · exact if_neg hpart
  · exact if_neg hpart

/-- Validation reads the parameters and the two length registers alone. -/
theorem streamPlan_congr {s t : State} (hparams : t.params = s.params) (hkeyLen : t.keyLen = s.keyLen)
    (hinLen : t.inLen = s.inLen) : streamPlan t = streamPlan s := by
  simp only [streamPlan, hparams, hkeyLen, hinLen]

section
variable {s : State}

theorem streamPlan_of_past_buffer
    (h : s.params.keyBufBytes < s.keyLen.toNat ∨ s.params.inBufBytes < s.inLen.toNat) :
    streamPlan s = .error .badLength := if_pos h

theorem streamPlan_of_short_key (hkey : s.keyLen.toNat ≤ s.params.keyBufBytes)
    (hin : s.inLen.toNat ≤ s.params.inBufBytes) (hshort : s.keyLen.toNat < 4) :
    streamPlan s = .error .invalidKeyLength := by
  rw [streamPlan, if_neg (by omega), if_pos hshort]

theorem streamPlan_of_valid_lengths (hkey : s.keyLen.toNat ≤ s.params.keyBufBytes)
    (hin : s.inLen.toNat ≤ s.params.inBufBytes) (hlong : 4 ≤ s.keyLen.toNat) :
    streamPlan s = blockCount s.params.padPolicy s.inLen.toNat := by
  rw [streamPlan, if_neg (by omega), if_neg (by omega)]

end

/-! ### The state STREAM ends in (R89 to R94) -/

/-- The state in which a STREAM of n blocks completes. -/
def streamDone (s : State) (n : Nat) : State :=
  (((streamBlocks s (deriveSubkeys s) n s).withSubkey (deriveSubkeys s)).withOutCount (BitVec.ofNat 32 n)).complete none

/-- A STREAM whose validation fails writes nothing but STATUS (R90, R104). -/
theorem exec_stream_of_plan_error {s : State} {e : CmdError} (h : streamPlan s = .error e) :
    exec .stream s = .next { s with busy := false, doneBit := true, err := errorCode e } := by
  rw [exec, execStream, h]
  rfl

theorem exec_stream_of_plan_ok {s : State} {n : Nat} (h : streamPlan s = .ok n) :
    exec .stream s = .next (streamDone s n) := by
  rw [exec, execStream, h]
  rfl

/-- Of the registers only SUBKEY, OUT_COUNT and STATUS are written. -/
theorem streamDone_eq (s : State) (n : Nat) :
    streamDone s n = { s with
      mem := (streamDone s n).mem, subkey := deriveSubkeys s, outCount := BitVec.ofNat 32 n,
      busy := false, doneBit := true, err := 0 } := by
  rw [streamDone, streamBlocks_eq_withMem]
  rfl

theorem streamDone_zero (s : State) :
    streamDone s 0 = { s with
      subkey := deriveSubkeys s, outCount := 0, busy := false, doneBit := true, err := 0 } := rfl

/-- Every byte outside OUT[0..n-1] reads as before. -/
theorem readByte_streamDone (s : State) {n a : Nat} (h : a < 0x800 ∨ 0x800 + 4 * n ≤ a) :
    (streamDone s n).readByte a = s.readByte a :=
  (readByte_congr rfl rfl a).trans (readByte_streamBlocks s (deriveSubkeys s) n s h)

/-- OUT[j] is the output of block j under the SubkeySet (R93). -/
theorem readLoc_streamDone_outWord (s : State) {n j : Nat} (h : j < n) :
    readLoc (streamDone s n) (.outWord j) = (encryptBlock s.params (inputBlock s j) (deriveSubkeys s)).1 :=
  (readBytes_congr fun _ _ => readByte_congr rfl rfl _).trans (readBytes_streamBlocks s (deriveSubkeys s) s h)

/-- The input bytes of R92, read at their window offset. -/
theorem inputByte_eq (s : State) (b : Nat) :
    inputByte s b = if b < s.inLen.toNat then (s.readByte (0x400 + b)).setWidth 32 else 0 := by
  simp only [inputByte, memRead, bufOffset, readBytes_one, zext32]

/-- Settles O22: the statement's block count is validation's, and its state is `streamDone`. -/
theorem streamCompletes : Obligations.StreamCompletes := by
  unfold Obligations.StreamCompletes
  refine ⟨decode_encode .stream, fun s n hkey hin hlong hn => ?_⟩
  have hplan : streamPlan s = .ok n := by
    rw [streamPlan_of_valid_lengths hkey hin hlong, blockCount_eq_ok_iff]
    exact hn
  refine ⟨streamDone s n, exec_stream_of_plan_ok hplan, ?registers, fun j hj => ?outWord, fun a => readByte_streamDone s⟩
  case registers =>
    rw [← deriveSubkeys_eq_keyBytes]
    exact streamDone_eq s n
  case outWord =>
    rw [readLoc_streamDone_outWord s hj, deriveSubkeys_eq_keyBytes, inputBlock]
    simp only [inputByte_eq]

/-- Settles O26: with equal inputs validation has one outcome, and if it passes the SubkeySets and the blocks are equal. -/
theorem streamIsDeterminedByItsInputs : Obligations.StreamIsDeterminedByItsInputs := by
  unfold Obligations.StreamIsDeterminedByItsInputs
  intro s t hparams hkeyLen hinLen hkey hin
  have hplan : streamPlan t = streamPlan s := streamPlan_congr hparams hkeyLen hinLen
  cases hs : streamPlan s with
  | error e =>
    exact ⟨_, _, exec_stream_of_plan_error hs, exec_stream_of_plan_error (hplan.trans hs), rfl,
      fun hnone => absurd hnone (errorCode_pos e)⟩
  | ok n =>
    have hz : deriveSubkeys t = deriveSubkeys s := deriveSubkeys_congr hkey
    refine ⟨_, _, exec_stream_of_plan_ok hs, exec_stream_of_plan_ok (hplan.trans hs), rfl,
      fun _ => ⟨hz, rfl, fun j hj => ?_⟩⟩
    have hjn : j < n := hj.trans_le (by rw [streamDone_eq, BitVec.toNat_ofNat]; exact Nat.mod_le _ _)
    have hx : inputBlock t j = inputBlock s j := inputBlock_congr hinLen fun i _ hb => hin (4 * j + i) hb
    rw [readLoc_streamDone_outWord t hjn, readLoc_streamDone_outWord s hjn, hparams, hx, hz]

/-- Settles O23: each clause is one failure of validation. -/
theorem streamValidatesEagerly : Obligations.StreamValidatesEagerly := by
  unfold Obligations.StreamValidatesEagerly
  refine fun s => ⟨fun hpast => ?badLength, fun hkey hin hshort => ?invalidKeyLength,
    fun hkey hin hlong hreject hpart => ?malformedBlock⟩
  case badLength => exact exec_stream_of_plan_error (streamPlan_of_past_buffer hpast)
  case invalidKeyLength => exact exec_stream_of_plan_error (streamPlan_of_short_key hkey hin hshort)
  case malformedBlock =>
    refine exec_stream_of_plan_error (e := .malformedBlock) ?_
    rw [streamPlan_of_valid_lengths hkey hin hlong, hreject]
    exact if_neg hpart

/-- Settles O24: an empty input fits its buffer and makes zero whole blocks under every policy, so the key alone decides. -/
theorem streamOfEmptyInput : Obligations.StreamOfEmptyInput := by
  unfold Obligations.StreamOfEmptyInput
  intro s hempty
  have hlen : s.inLen.toNat = 0 := by rw [hempty]; rfl
  have hin : s.inLen.toNat ≤ s.params.inBufBytes := by omega
  refine ⟨fun hpast => ?badLength, fun hkey hshort => ?invalidKeyLength, fun hlong hkey => ?valid⟩
  case badLength => exact exec_stream_of_plan_error (streamPlan_of_past_buffer (.inl hpast))
  case invalidKeyLength => exact exec_stream_of_plan_error (streamPlan_of_short_key hkey hin hshort)
  case valid =>
    have hplan : streamPlan s = .ok 0 := by
      rw [streamPlan_of_valid_lengths hkey hin hlong, hlen]
      rfl
    rw [exec_stream_of_plan_ok hplan, streamDone_zero, deriveSubkeys_eq_keyBytes]

end Sys2Proof.Machine
end

section
/-! PROOFS. Errors and completion of 60_exceptions.md: the error condition of the pending command (R101 to R103), and the one
form every completion step has (R104, R105). -/

namespace Sys2Proof.Machine

/-! ### The error a command raises (R101 to R103) -/

/-- The condition that ends STREAM's eager validation, if one does (R90). -/
def streamError (s : State) : Option CmdError :=
  match streamPlan s with
  | .error e => some e
  | .ok _ => none

/-- The error of a command: KEYSCHED and STREAM alone can raise one (R102). -/
def commandError (s : State) : Instr → Option CmdError
  | .keysched => keyCheck s
  | .stream => streamError s
  | _ => none

/-- The error of the word in CMD: IllegalCommand if it does not decode, else that of its command (R103). -/
def pendingError (s : State) : Option CmdError :=
  match decode s.cmd with
  | .error _ => some .illegalCommand
  | .ok i => commandError s i

theorem pendingError_of_decode_error {s : State} {k : Illegal} (h : decode s.cmd = .error k) :
    pendingError s = some .illegalCommand := by
  rw [pendingError, h]

theorem pendingError_of_decode_ok {s : State} {i : Instr} (h : decode s.cmd = .ok i) :
    pendingError s = commandError s i := by
  rw [pendingError, h]

theorem statusCode_keyCheck (s : State) :
    statusCode (keyCheck s) =
      if s.keyLen.toNat > s.params.keyBufBytes then 2 else if s.keyLen.toNat < 4 then 3 else 0 := by
  rw [keyCheck, apply_ite statusCode, apply_ite statusCode]
  rfl

theorem streamError_of_plan_error {s : State} {e : CmdError} (h : streamPlan s = .error e) : streamError s = some e := by
  rw [streamError, h]

theorem streamError_of_plan_ok {s : State} {n : Nat} (h : streamPlan s = .ok n) : streamError s = none := by
  rw [streamError, h]

theorem blockCount_reject {len : Nat} (h : len % 4 ≠ 0) : blockCount .reject len = .error .malformedBlock := if_neg h

/-- Only REJECT refuses a length, and only one with a partial block (R95). -/
theorem exists_blockCount_ok {pad : PadPolicy} {len : Nat} (h : ¬ (len % 4 ≠ 0 ∧ pad = .reject)) :
    ∃ n, blockCount pad len = .ok n := by
  cases hcount : blockCount pad len with
  | error e =>
    obtain ⟨hpart, hreject, -⟩ := blockCount_error hcount
    exact absurd ⟨hpart, hreject⟩ h
  | ok n => exact ⟨n, rfl⟩

theorem statusCode_streamError (s : State) :
    statusCode (streamError s) =
      if s.keyLen.toNat > s.params.keyBufBytes ∨ s.inLen.toNat > s.params.inBufBytes then 2
      else if s.keyLen.toNat < 4 then 3
      else if s.inLen.toNat % 4 ≠ 0 ∧ s.params.padPolicy = .reject then 4
      else 0 := by
  by_cases hpast : s.keyLen.toNat > s.params.keyBufBytes ∨ s.inLen.toNat > s.params.inBufBytes
  · rw [if_pos hpast, streamError_of_plan_error (streamPlan_of_past_buffer hpast)]
    rfl
  have hkey : s.keyLen.toNat ≤ s.params.keyBufBytes := by omega
  have hin : s.inLen.toNat ≤ s.params.inBufBytes := by omega
  rw [if_neg hpast]
  by_cases hshort : s.keyLen.toNat < 4
  · rw [if_pos hshort, streamError_of_plan_error (streamPlan_of_short_key hkey hin hshort)]
    rfl
  have hplan := streamPlan_of_valid_lengths hkey hin (not_lt.1 hshort)
  rw [if_neg hshort]
  by_cases hrefused : s.inLen.toNat % 4 ≠ 0 ∧ s.params.padPolicy = .reject
  · obtain ⟨hpart, hreject⟩ := hrefused
    rw [hreject, blockCount_reject hpart] at hplan
    rw [if_pos ⟨hpart, hreject⟩, streamError_of_plan_error hplan]
    rfl
  · obtain ⟨n, hn⟩ := exists_blockCount_ok hrefused
    rw [if_neg hrefused, streamError_of_plan_ok (hplan.trans hn)]
    rfl

/-! ### The completion step (R104, R105) -/

/-- The outcome r of a command begun in s is a completion that reports e (R105), on s itself if e is an error (R104). -/
def CompletesWith (e : Option CmdError) (s : State) (r : Result) : Prop :=
  ∃ u : State, r = .next (u.complete e) ∧ (e ≠ none → u = s)

theorem completesWith_raise (e : CmdError) (s : State) : CompletesWith (some e) s (raise e s) :=
  ⟨s, raise_eq e s, fun _ => rfl⟩

theorem completesWith_finish (s u : State) : CompletesWith none s (finish u) :=
  ⟨u, finish_eq u, fun h => absurd rfl h⟩

/-- Every command completes with its error, and with nothing but STATUS written if it has one. -/
theorem exec_completesWith (i : Instr) (s : State) : CompletesWith (commandError s i) s (exec i s) := by
  cases i with
  | keysched =>
    rw [exec, execKeysched, commandError]
    cases keyCheck s with
    | none => exact completesWith_finish s _
    | some e => exact completesWith_raise e s
  | stream =>
    rw [exec, execStream, commandError, streamError]
    cases streamPlan s with
    | error e => exact completesWith_raise e s
    | ok n => exact completesWith_finish s _
  | _ => exact completesWith_finish s _

theorem coreStep_completesWith {s : State} (hbusy : s.busy = true) :
    CompletesWith (pendingError s) s (coreStep s) := by
  cases hcmd : decode s.cmd with
  | error k =>
    rw [pendingError_of_decode_error hcmd, coreStep_of_decode_error hbusy hcmd]
    exact completesWith_raise .illegalCommand s
  | ok i =>
    rw [pendingError_of_decode_ok hcmd, coreStep, if_pos hbusy, hcmd]
    exact exec_completesWith i s

/-- Settles O28: the completion step reports the code of `pendingError`, which is read off command by command. -/
theorem completionReportsFirstError : Obligations.CompletionReportsFirstError := by
  unfold Obligations.CompletionReportsFirstError
  intro s hbusy
  obtain ⟨u, hstep, -⟩ := coreStep_completesWith hbusy
  refine ⟨_, hstep, rfl, rfl, ?_⟩
  change statusCode (pendingError s) = _
  cases hcmd : decode s.cmd with
  | error k => rw [pendingError_of_decode_error hcmd]; rfl
  | ok i =>
    rw [pendingError_of_decode_ok hcmd]
    cases i with
    | keysched => exact statusCode_keyCheck s
    | stream => exact statusCode_streamError s
    | _ => rfl

/-- Settles O29: a code other than 0 comes from an error, and then STATUS is written on the state the step began with. -/
theorem errorsWriteOnlyStatus : Obligations.ErrorsWriteOnlyStatus := by
  unfold Obligations.ErrorsWriteOnlyStatus
  intro s t hbusy hstep herr
  obtain ⟨u, hnext, hkept⟩ := coreStep_completesWith hbusy
  obtain rfl : t = u.complete (pendingError s) := Host.Outcome.next.inj (hstep.symm.trans hnext)
  have hraised : pendingError s ≠ none := fun hnone => herr (by rw [hnone]; rfl)
  rw [hkept hraised]
  rfl

end Sys2Proof.Machine
end

section
/-! PROOFS. Encoding and decoding are inverse to each other (30_encoding.md R57, R58, R61). -/

namespace Sys2Proof

/-- The three fields of the word of the command that a row makes with an amount it allows: RSV is 0, and AMT and OPC are the
amount and the row's opcode (R54, R61). -/
theorem encode_make_fields : ∀ r ∈ opcodeRows, ∀ n : BitVec 5,
    (n = 0 ∨ opcField r.bits = 0x04 ∨ opcField r.bits = 0x05) →
    rsvField (encode (r.make n)) = 0 ∧ amtField (encode (r.make n)) = n ∧
      opcField (encode (r.make n)) = opcField r.bits := by
  decide

/-- A word that selects a row has no bit that the row's command does not name. -/
theorem encode_make_of_selects {w : Word} {r : OpcodeRow} (hr : r ∈ opcodeRows) (hw : Selects w r) :
    encode (r.make (amtField w)) = w := by
  obtain ⟨hrsv, hamt, hopc⟩ := (selects_opcodeRow_iff w hr).1 hw
  rw [hopc] at hamt
  obtain ⟨hrsv', hamt', hopc'⟩ := encode_make_fields r hr (amtField w) hamt
  exact (word_eq_iff_fields _ _).2 ⟨hrsv'.trans hrsv.symm, hamt', hopc'.trans hopc.symm⟩

/-- Settles O3: a word that decodes selects a row, and all three of its fields are in the encoding of the row's command. -/
theorem decodeAndEncodeAgree : Obligations.DecodeAndEncodeAgree := by
  unfold Obligations.DecodeAndEncodeAgree
  refine ⟨decode_encode, fun w i h => ?_⟩
  obtain ⟨r, hr, hw, rfl⟩ := (decode_eq_ok_iff w i).1 h
  exact encode_make_of_selects hr hw

/-- Settles O1: the legal words are the encodings of their commands, and each illegal word is evaluated. -/
theorem writtenOutWordsDecode : Obligations.WrittenOutWordsDecode := by
  unfold Obligations.WrittenOutWordsDecode
  exact ⟨decode_encode .add, decode_encode .mul, decode_encode .xor, decode_encode (.rotr 1), decode_encode (.rotr 31),
    decode_encode (.rotl 1), decode_encode (.rotl 31), decode_encode .keysched, decode_encode .mixf, decode_encode .mixl,
    decode_encode .encblk, decode_encode .stream, rfl, rfl, rfl, rfl⟩

end Sys2Proof
end

section
/-! PROOFS. The laws of the multiplier (40_primitives.md R68), from its double sum over the bits of both words (R67). -/

namespace Sys2Proof.Machine

/-! ### A word as the sum of its bits -/

theorem sum_bits_below (v : Word) (n : Nat) :
    (v.setWidth n).setWidth 32 = ∑ k ∈ Finset.range n, if v.getLsbD k then BitVec.twoPow 32 k else 0 := by
  induction n with
  | zero => rw [BitVec.of_length_zero (x := v.setWidth 0)]; rfl
  | succ n ih =>
    rw [BitVec.setWidth_setWidth_succ_eq_setWidth_setWidth_add_twoPow, ih, Finset.sum_range_succ, BitVec.and_twoPow]
    rfl

theorem word_eq_sum_bits (v : Word) : v = ∑ k : Fin 32, if v.getLsbD k then BitVec.twoPow 32 k else 0 := by
  rw [Fin.sum_univ_eq_sum_range (fun k => if v.getLsbD k then BitVec.twoPow 32 k else 0), ← sum_bits_below,
    BitVec.setWidth_eq, BitVec.setWidth_eq]

/-! ### The multiplier as a double sum -/

theorem foldl_addRotated_eq_sum (dir : RotDir) (a b : Word) (n : Nat) :
    (List.range n).foldl (addRotated dir a b) 0 =
      ∑ i ∈ Finset.range n, if b.getLsbD i then rotBy dir a i else 0 := by
  induction n with
  | zero => rfl
  | succ n ih =>
    rw [List.range_succ, List.foldl_append, ih, Finset.sum_range_succ, List.foldl_cons, List.foldl_nil, addRotated]
    split
    · rfl
    · exact (add_zero _).symm

theorem mul32_eq_sum (dir : RotDir) (a b : Word) :
    mul32 dir a b = ∑ i : Fin 32, if b.getLsbD i then rotBy dir a i else 0 := by
  rw [mul32_eq_foldl, foldl_addRotated_eq_sum, Fin.sum_univ_eq_sum_range (fun i => if b.getLsbD i then rotBy dir a i else 0)]

/-- Where a rotation by i takes each bit place. -/
def place (dir : RotDir) (i : Fin 32) : Equiv.Perm (Fin 32) :=
  match dir with
  | .left => Equiv.addRight i
  | .right => Equiv.subRight i

theorem getLsbD_rotBy_place (dir : RotDir) (a : Word) (i k : Fin 32) :
    (rotBy dir a i).getLsbD (place dir i k) = a.getLsbD k := by
  have hi : (BitVec.ofNat 5 i).toNat = i := Nat.mod_eq_of_lt i.isLt
  cases dir with
  | left =>
    have h := getLsbD_rotl32_add a (BitVec.ofNat 5 i) k.isLt
    rwa [hi, ← rotateLeft_eq_rotl32, ← Fin.val_add] at h
  | right =>
    have h := getLsbD_rotr32 a (BitVec.ofNat 5 i) (k - i).isLt
    rwa [hi, ← rotateRight_eq_rotr32, ← Fin.val_add, sub_add_cancel] at h

theorem rotBy_eq_sum (dir : RotDir) (a : Word) (i : Fin 32) :
    rotBy dir a i = ∑ k : Fin 32, if a.getLsbD k then BitVec.twoPow 32 (place dir i k) else 0 := by
  rw [word_eq_sum_bits (rotBy dir a i), ← Equiv.sum_comp (place dir i)]
  simp only [getLsbD_rotBy_place]

theorem mul32_eq_double_sum (dir : RotDir) (a b : Word) :
    mul32 dir a b =
      ∑ i : Fin 32, ∑ k : Fin 32, if b.getLsbD i && a.getLsbD k then BitVec.twoPow 32 (place dir i k) else 0 := by
  rw [mul32_eq_sum]
  refine Finset.sum_congr rfl fun i _ => ?_
  cases b.getLsbD i with
  | false => simp
  | true => simp [rotBy_eq_sum]

/-! ### Zero, powers of two and all ones -/

theorem zero_mul32 (dir : RotDir) (b : Word) : mul32 dir 0 b = 0 := by
  simp [mul32_eq_double_sum]

theorem getLsbD_ofNat_two_pow (i : Fin 32) (j : Nat) : (BitVec.ofNat 32 (2 ^ i.val)).getLsbD j = decide (i.val = j) := by
  rw [BitVec.getLsbD_ofNat, Nat.testBit_two_pow]
  have := i.isLt
  grind

/-- One bit of b is set, so one rotation of a is added. -/
theorem mul32_two_pow (dir : RotDir) (a : Word) (i : Fin 32) : mul32 dir a (BitVec.ofNat 32 (2 ^ i.val)) = rotBy dir a i := by
  simp only [mul32_eq_sum, getLsbD_ofNat_two_pow, decide_eq_true_eq, Fin.val_inj, Finset.sum_ite_eq, Finset.mem_univ,
    if_true]

theorem getLsbD_allOnes_fin (i : Fin 32) : (BitVec.allOnes 32).getLsbD i = true := by
  rw [BitVec.getLsbD_allOnes, decide_eq_true i.isLt]

/-- The 32 rotations of one bit set every bit. -/
theorem sum_twoPow_place (dir : RotDir) (k : Fin 32) : ∑ i, BitVec.twoPow 32 (place dir i k) = BitVec.allOnes 32 := by
  have hall : ∑ i : Fin 32, BitVec.twoPow 32 i = BitVec.allOnes 32 := by
    rw [word_eq_sum_bits (BitVec.allOnes 32)]
    simp only [getLsbD_allOnes_fin, if_true]
  rw [← hall]
  cases dir with
  | left => exact Equiv.sum_comp (Equiv.addLeft k) fun i : Fin 32 => BitVec.twoPow 32 i
  | right => exact Equiv.sum_comp (Equiv.subLeft k) fun i : Fin 32 => BitVec.twoPow 32 i

theorem countP_range_eq_sum (p : Nat → Bool) (n : Nat) :
    (List.range n).countP p = ∑ k ∈ Finset.range n, if p k then 1 else 0 := by
  induction n with
  | zero => rfl
  | succ n ih => rw [List.range_succ, List.countP_append, ih, Finset.sum_range_succ, List.countP_singleton]

theorem popcount_eq_sum (v : Word) : popcount v = ∑ k : Fin 32, if v.getLsbD k then 1 else 0 := by
  rw [popcount, countP_range_eq_sum, Fin.sum_univ_eq_sum_range (fun k => if v.getLsbD k then 1 else 0)]

/-- Each set bit of a adds all ones, which is -1. -/
theorem mul32_allOnes (dir : RotDir) (a : Word) : mul32 dir a (BitVec.allOnes 32) = -(popcount a : Word) := by
  calc mul32 dir a (BitVec.allOnes 32)
    _ = ∑ k : Fin 32, ∑ i : Fin 32, if a.getLsbD k then BitVec.twoPow 32 (place dir i k) else 0 := by
      rw [mul32_eq_double_sum, Finset.sum_comm]
      simp only [getLsbD_allOnes_fin, Bool.true_and]
    _ = ∑ k : Fin 32, -((if a.getLsbD k then 1 else 0 : Nat) : Word) := by
      refine Finset.sum_congr rfl fun k _ => ?_
      cases a.getLsbD k with
      | false => simp
      | true => simpa using sum_twoPow_place dir k
    _ = -(popcount a : Word) := by
      rw [popcount_eq_sum, Finset.sum_neg_distrib, Nat.cast_sum]

theorem neg_natCast_word {n : Nat} (h : n ≤ 2 ^ 32) : -(n : Word) = BitVec.ofNat 32 ((2 ^ 32 - n) % 2 ^ 32) := by
  apply BitVec.eq_of_toNat_eq
  rw [BitVec.natCast_eq_ofNat, BitVec.toNat_neg, BitVec.toNat_ofNat, BitVec.toNat_ofNat]
  omega

theorem popcount_le (v : Word) : popcount v ≤ 32 := List.countP_le_length

/-- Settles O8: the sum over the bits of b has no addend, one addend or all 32. -/
theorem multiplierIdentities : Obligations.MultiplierIdentities := by
  unfold Obligations.MultiplierIdentities
  intro dir
  refine ⟨mul32_zero dir, mul32_one dir, zero_mul32 dir, fun a i hi => ?_, fun a => ?_⟩
  · rw [mul32_two_pow dir a ⟨i, hi⟩]
    cases dir <;> rfl
  · rw [← neg_natCast_word ((popcount_le a).trans (by decide)), ← mul32_allOnes dir a]
    rfl

/-! ### Commutativity -/

/-- Under LEFT the bits i and k of the two words meet at the place i + k. -/
theorem mul32_left_comm (a b : Word) : mul32 .left a b = mul32 .left b a := by
  rw [mul32_eq_double_sum, mul32_eq_double_sum, Finset.sum_comm]
  simp only [place, Equiv.coe_addRight, Bool.and_comm, add_comm]

/-- Settles O9: the double sum under LEFT is symmetric; the counterexample under RIGHT is evaluated. -/
theorem multiplierCommutesUnderLeft : Obligations.MultiplierCommutesUnderLeft := by
  unfold Obligations.MultiplierCommutesUnderLeft
  exact ⟨mul32_left_comm, by decide, by decide⟩

/-! ### The ordinary product -/

/-- A left rotation that moves no bit past bit 31 is a multiplication by a power of two. -/
theorem rotateLeft_eq_mul_of_no_wrap {a : Word} {i : Nat} (hi : i < 32) (h : a.toNat < 2 ^ (32 - i)) :
    a.rotateLeft i = a * BitVec.twoPow 32 i := by
  have hout : a >>> (32 - i) = 0 := by
    apply BitVec.eq_of_toNat_eq
    rw [BitVec.toNat_ushiftRight, Nat.shiftRight_eq_zero _ _ h]
    rfl
  rw [BitVec.rotateLeft_def, Nat.mod_eq_of_lt hi, hout, BitVec.shiftLeft_eq_mul_twoPow]
  exact BitVec.or_zero

theorem mul32_left_of_no_wraps {a b : Word} (h : ∀ i < 32, b.getLsbD i = true → a.toNat < 2 ^ (32 - i)) :
    mul32 .left a b = a * b := by
  calc mul32 .left a b
    _ = ∑ i : Fin 32, a * if b.getLsbD i then BitVec.twoPow 32 i else 0 := by
      rw [mul32_eq_sum]
      refine Finset.sum_congr rfl fun i _ => ?_
      split
      next hbit => exact rotateLeft_eq_mul_of_no_wrap i.isLt (h i i.isLt hbit)
      next => exact (mul_zero a).symm
    _ = a * b := by rw [← Finset.mul_sum, ← word_eq_sum_bits]

/-- Settles O10: with no wrap each addend is a shifted copy of a, so the sum is the product of a and the bits of b. -/
theorem multiplierIsOrdinaryWithoutWraps : Obligations.MultiplierIsOrdinaryWithoutWraps := by
  unfold Obligations.MultiplierIsOrdinaryWithoutWraps
  refine ⟨fun a b h => ?_, by decide⟩
  rw [mul32_left_of_no_wraps h, BitVec.toNat_mul]

end Sys2Proof.Machine
end

section
/-! PROOFS. The window of 20_memory.md: its layout (R36), what a read gives (R38, R41, R43, R45), and words that read back. -/

namespace Sys2Proof.Machine

/-! ### The layout of the window (R36) -/

theorem regOffset_of_singleReg {offset : Nat} {r : Reg} (h : singleReg offset = some r) : regOffset r = offset := by
  unfold singleReg at h
  split at h <;> cases h <;> rfl

/-- An aligned offset in an array of words is the offset of the word it indexes. -/
theorem offset_of_wordIndex {start n offset : Nat} {i : Fin n} (h : wordIndex start n offset = some i)
    (hstart : start % 4 = 0) (ha : offset % 4 = 0) : start + 4 * i.val = offset := by
  obtain ⟨hle, hi⟩ := wordIndex_eq_some.1 h
  omega

/-- An offset that names a location is the location's own. -/
theorem locOffset_of_locate {p : Params} {offset : Nat} {l : Loc} (h : locate p offset = some l) :
    locOffset l = offset := by
  obtain ⟨ha, -⟩ := locate_mapped h
  rw [locate, if_pos ha] at h
  simp only [Option.or_eq_some_iff, Option.map_eq_some_iff] at h
  obtain ⟨r, hr, rfl⟩ | ⟨-, ⟨i, hi, rfl⟩ | ⟨-, ⟨i, hi, rfl⟩ | ⟨-, ⟨i, hi, rfl⟩ | ⟨-, ⟨w, hw, rfl⟩ | ⟨-, ⟨w, hw, rfl⟩ |
    ⟨-, ⟨w, hw, rfl⟩⟩⟩⟩⟩⟩⟩ := h
  · exact regOffset_of_singleReg hr
  · exact offset_of_wordIndex hi rfl ha
  · exact offset_of_wordIndex hi rfl ha
  · exact offset_of_wordIndex hi rfl ha
  · exact offset_of_wordIndex hw rfl ha
  · exact offset_of_wordIndex hw rfl ha
  · exact offset_of_wordIndex hw rfl ha

/-- KEY_BUF and IN_BUF, of at most 256 and 1024 bytes, end before OUT_BUF begins. -/
theorem locate_outWord {p : Params} {w : Nat} (hkey : p.keyBufBytes ≤ 256) (hin : p.inBufBytes ≤ 1024)
    (hw : w < p.outBufWords) : locate p (0x800 + 4 * w) = some (.outWord w) := by
  rw [locate_above_registers p (by omega) (by omega), wordIndex_eq_none (start := 0x100) (by omega),
    wordIndex_eq_none (start := 0x400) (by omega), wordIndex_start_add _ hw]
  rfl

/-- With legal parameters an offset names a location just when it is the location's own and the window maps it. -/
theorem locate_eq_some_iff {p : Params} (hp : p.Legal) (offset : Nat) (l : Loc) :
    locate p offset = some l ↔ offset = locOffset l ∧ locMapped p l = true := by
  refine ⟨fun h => ⟨(locOffset_of_locate h).symm, (locate_mapped h).2⟩, ?_⟩
  rintro ⟨rfl, hmapped⟩
  obtain ⟨-, -, hkey, -, -, hin, -⟩ := hp
  cases l with
  | reg r => exact locate_regOffset p r
  | keyWord w => exact locate_keyWord p (of_decide_eq_true hmapped)
  | inWord w => exact locate_inWord hkey (of_decide_eq_true hmapped)
  | outWord w => exact locate_outWord hkey hin (of_decide_eq_true hmapped)

/-- Settles O44: every location stands at its own offset alone, and the buffer words end at the capacity. -/
theorem windowLayout : Obligations.WindowLayout := by
  unfold Obligations.WindowLayout
  refine ⟨rfl, rfl, rfl, rfl, rfl, rfl, fun i => ⟨rfl, rfl⟩, fun i => rfl, fun p hp => ?_⟩
  simp only [locate_eq_some_iff hp, locMapped, decide_eq_true_eq, and_true]
  exact ⟨fun _ _ => Iff.rfl, fun _ _ => Iff.rfl, fun _ _ => Iff.rfl, fun _ _ => Iff.rfl⟩

/-! ### Buffer words (R38) -/

/-- A Word is its four bytes, byte 0 the lowest. -/
theorem word_eq_bytes (v : Word) : v = byteOf v 3 ++ byteOf v 2 ++ byteOf v 1 ++ byteOf v 0 := by
  have h32 : byteOf v 3 ++ byteOf v 2 = v.extractLsb' 16 16 := BitVec.extractLsb'_append_extractLsb'_eq_extractLsb' rfl
  have h321 : v.extractLsb' 16 16 ++ byteOf v 1 = v.extractLsb' 8 24 :=
    BitVec.extractLsb'_append_extractLsb'_eq_extractLsb' rfl
  rw [h32, h321]
  exact (BitVec.extractLsb'_append_extractLsb' (w := 24) (len := 8)).symm

/-- A Word read at a is the four bytes from a on, the first in bits [7:0]. -/
theorem readBytes_four (s : State) (a : Nat) :
    s.readBytes a 4 = s.readByte (a + 3) ++ s.readByte (a + 2) ++ s.readByte (a + 1) ++ s.readByte a := by
  have hbyte : ∀ i < 4, byteOf (s.readBytes a 4) i = s.readByte (a + i) := fun i hi => byteOf_readBytes s hi le_rfl
  rw [word_eq_bytes (s.readBytes a 4), hbyte 0 (by decide), hbyte 1 (by decide), hbyte 2 (by decide),
    hbyte 3 (by decide)]
  rfl
/-- Settles O49: a word is read and written at its own window offset, four bytes at a time. -/
theorem bufferWordsAreLittleEndian : Obligations.BufferWordsAreLittleEndian := by
  unfold Obligations.BufferWordsAreLittleEndian
  exact ⟨fun s w => ⟨readBytes_four s (0x100 + 4 * w), readBytes_four s (0x400 + 4 * w)⟩,
    fun s w v => ⟨readBytes_writeBytes_same s (0x100 + 4 * w) v, readBytes_writeBytes_same s (0x400 + 4 * w) v⟩⟩

/-! ### Reads (R41, R43, R45) -/

/-- The output locations of R45. -/
theorem locIsOutput_iff (l : Loc) :
    locIsOutput l = true ↔
      (∃ r, l = .reg r ∧ (r = .result ∨ r = .outCount ∨ (∃ i, r = .subkey i) ∨ ∃ i, r = .trace i)) ∨
        ∃ w, l = .outWord w := by
  cases l with
  | reg r => cases r <;> simp [locIsOutput]
  | keyWord w => simp [locIsOutput]
  | inWord w => simp [locIsOutput]
  | outWord w => simp [locIsOutput]

/-- STATUS and the locations the host may write are no output locations. -/
theorem locIsOutput_eq_false_iff (l : Loc) :
    locIsOutput l = false ↔
      l = .reg .status ∨ l = .reg .cmd ∨ l = .reg .keyLen ∨ l = .reg .inLen ∨ (∃ i, l = .reg (.op i)) ∨
        (∃ w, l = .keyWord w) ∨ ∃ w, l = .inWord w := by
  cases l with
  | reg r => cases r <;> simp [locIsOutput]
  | keyWord w => simp [locIsOutput]
  | inWord w => simp [locIsOutput]
  | outWord w => simp [locIsOutput]

theorem busRead_output_busy {s : State} {offset : Nat} {l : Loc} (hl : locate s.params offset = some l)
    (hout : locIsOutput l = true) (hbusy : s.busy = true) :
    busRead s offset = (.okData (Config.freeWord s.draws), s.drawn) := by
  simp [busRead, hl, hout, hbusy]

theorem busRead_value {s : State} {offset : Nat} {l : Loc} (hl : locate s.params offset = some l)
    (h : s.busy = false ∨ locIsOutput l = false) : busRead s offset = (.okData (readLoc s l), s) := by
  rcases h with h | h <;> simp [busRead, hl, h]

/-- Settles O46: a read's value is `readLoc`, but at an output location while busy. -/
theorem busReadsGiveValues : Obligations.BusReadsGiveValues := by
  unfold Obligations.BusReadsGiveValues
  refine ⟨fun s => ⟨rfl, rfl, rfl, rfl, rfl, fun _ => rfl, rfl, fun _ => rfl, fun _ => rfl,
    fun w => readBytes_four s (0x800 + 4 * w)⟩, fun s offset l hl => ⟨fun hout hbusy => ?_, fun hidle => ?_, fun hin => ?_⟩⟩
  · exact busRead_output_busy hl ((locIsOutput_iff l).2 hout) hbusy
  · exact busRead_value hl (.inl hidle)
  · exact busRead_value hl (.inr ((locIsOutput_eq_false_iff l).2 hin))

theorem busRead_coreKept (s : State) (offset : Nat) : CoreKept s (busRead s offset).2 := by
  rcases busRead_cases s offset with ⟨-, h⟩ | ⟨l, -, ⟨-, -, h⟩ | ⟨-, h⟩⟩ <;> rw [h]
  · exact CoreKept.rfl' s
  · exact drawn_coreKept s
  · exact CoreKept.rfl' s

/-- A read of an idle core draws no free value. -/
theorem busRead_idle_unchanged {s : State} (hidle : s.busy = false) (offset : Nat) : (busRead s offset).2 = s := by
  rcases busRead_cases s offset with ⟨-, h⟩ | ⟨l, -, ⟨hbusy, -, -⟩ | ⟨-, h⟩⟩
  · rw [h]
  · simp [hidle] at hbusy
  · rw [h]

/-- Settles O47: at most the count of draws moves on, and while idle not even that. -/
theorem readsHaveNoSideEffect : Obligations.ReadsHaveNoSideEffect := by
  unfold Obligations.ReadsHaveNoSideEffect
  exact fun s offset => ⟨busRead_coreKept s offset, fun hidle => by rw [busRead_idle_unchanged hidle]⟩

end Sys2Proof.Machine
end

section
/-! PROOFS. What each command writes, said once, and from it the frame of every command (10_state.md D22); then what KEYSCHED
and STREAM read (R75, R97), and STREAM against ENCBLK (R93). -/

namespace Sys2Proof.Machine

/-! ### What a command writes -/

/-- The states in which the command i, begun in s, can complete. -/
inductive Completion (s : State) : Instr → State → Prop
  /-- An error writes STATUS alone; only KEYSCHED and STREAM raise one (R102, R104). -/
  | error {i : Instr} (e : CmdError) (hi : i = .keysched ∨ i = .stream) : Completion s i (s.complete (some e))
  /-- The primitives and the two mix commands write RESULT. -/
  | word {i : Instr} (r : Word) (hk : i ≠ .keysched) (hs : i ≠ .stream) : Completion s i ((s.withResult r).complete none)
  | encblk (trace : Vector Word 8) (r : Word) : Completion s .encblk (((s.withTrace trace).withResult r).complete none)
  | keysched : Completion s .keysched ((s.withSubkey (deriveSubkeys s)).complete none)
  /-- A STREAM of n blocks writes the buffers as its block loop does. -/
  | stream (n : Nat) (m : Memory) (hplan : streamPlan s = .ok n)
      (hm : streamBlocks s (deriveSubkeys s) n s = s.withMem m) :
      Completion s .stream
        ((((s.withMem m).withSubkey (deriveSubkeys s)).withOutCount (BitVec.ofNat 32 n)).complete none)

theorem completion_of_exec {i : Instr} {s t : State} (h : exec i s = .next t) : Completion s i t := by
  cases i with
  | keysched =>
    rw [exec, execKeysched] at h
    split at h <;> cases h
    · exact .error _ (.inl rfl)
    · exact .keysched
  | stream =>
    rw [exec, execStream] at h
    split at h <;> cases h
    next e _ => exact .error e (.inr rfl)
    next n hplan =>
      have hm := streamBlocks_eq_withMem s (deriveSubkeys s) n s
      rw [hm]
      exact .stream n _ hplan hm
  | encblk => cases h; exact .encblk _ _
  | _ => cases h; exact .word _ nofun nofun

/-- Settles O30: no completion writes an input register, and STREAM's blocks lie from 0x800 on. -/
theorem commandsNeverWriteInputs : Obligations.CommandsNeverWriteInputs := by
  unfold Obligations.CommandsNeverWriteInputs
  intro i s t h
  cases completion_of_exec h with
  | stream n m hplan hm =>
    refine ⟨rfl, rfl, rfl, rfl, rfl, rfl, rfl, rfl, rfl, rfl, rfl, rfl, fun a ha => ?_⟩
    have hkept := readByte_streamBlocks s (deriveSubkeys s) n s (.inl ha)
    rwa [hm] at hkept
  | _ => exact ⟨rfl, rfl, rfl, rfl, rfl, rfl, rfl, rfl, rfl, rfl, rfl, rfl, fun _ _ => rfl⟩

/-- Settles O31: each output is written in its own cases of `Completion` only. -/
theorem outputsAreWrittenByTheirCommands : Obligations.OutputsAreWrittenByTheirCommands := by
  unfold Obligations.OutputsAreWrittenByTheirCommands
  intro i s t h
  cases completion_of_exec h with
  | error e hi => exact ⟨fun _ => rfl, fun _ _ => rfl, fun _ => rfl, fun _ => ⟨rfl, fun _ => rfl⟩⟩
  | word r hk hs =>
    exact ⟨fun hi => (hi.elim hk hs).elim, fun _ _ => rfl, fun _ => rfl, fun _ => ⟨rfl, fun _ => rfl⟩⟩
  | encblk trace r => exact ⟨nofun, fun _ _ => rfl, fun hi => (hi rfl).elim, fun _ => ⟨rfl, fun _ => rfl⟩⟩
  | keysched => exact ⟨fun _ => rfl, fun hk _ => (hk rfl).elim, fun _ => rfl, fun _ => ⟨rfl, fun _ => rfl⟩⟩
  | stream n m hplan hm => exact ⟨fun _ => rfl, fun _ hs => (hs rfl).elim, fun _ => rfl, fun hs => (hs rfl).elim⟩

/-! ### What KEYSCHED reads (R75) -/

/-- Settles O17: the key check reads KEY_LEN and the capacity, and the SubkeySet four bytes. -/
theorem keyschedReadsFourBytes : Obligations.KeyschedReadsFourBytes := by
  unfold Obligations.KeyschedReadsFourBytes
  intro s t hcap hlen hkey
  have hcheck : keyCheck t = keyCheck s := by rw [keyCheck, keyCheck, hcap, hlen]
  cases hs : keyCheck s with
  | none =>
    exact ⟨_, _, exec_keysched_of_keyCheck_none hs, exec_keysched_of_keyCheck_none (hcheck.trans hs), rfl,
      fun _ => deriveSubkeys_congr hkey⟩
  | some e =>
    exact ⟨_, _, exec_keysched_of_keyCheck_some hs, exec_keysched_of_keyCheck_some (hcheck.trans hs), rfl,
      fun hnone => absurd hnone (errorCode_pos e)⟩

/-! ### STREAM block by block (R85, R93, R97) -/

theorem subkey_streamDone (s : State) (n : Nat) : (streamDone s n).subkey = deriveSubkeys s := rfl

theorem outCount_streamDone_le (s : State) (n : Nat) : (streamDone s n).outCount.toNat ≤ n :=
  (BitVec.toNat_ofNat n 32).le.trans (Nat.mod_le n _)

/-- A STREAM that reports no error has passed validation. -/
theorem streamDone_of_exec {s t : State} (h : exec .stream s = .next t) (herr : t.err = 0) :
    ∃ n, streamPlan s = .ok n ∧ t = streamDone s n := by
  cases hplan : streamPlan s with
  | error e =>
    cases h.symm.trans (exec_stream_of_plan_error hplan)
    exact absurd herr (errorCode_pos e)
  | ok n => exact ⟨n, rfl, Host.Outcome.next.inj (h.symm.trans (exec_stream_of_plan_ok hplan))⟩

theorem words4_eq (x : Words4) : #v[x[0], x[1], x[2], x[3]] = x := by
  ext i hi
  match i with
  | 0 | 1 | 2 | 3 => rfl

/-- Settles O25: both commands run the block function, on the same block and the same subkeys. -/
theorem streamMatchesEncblk : Obligations.StreamMatchesEncblk := by
  unfold Obligations.StreamMatchesEncblk
  intro s t hstream herr j hj
  obtain ⟨n, -, rfl⟩ := streamDone_of_exec hstream herr
  refine ⟨_, exec_encblk _, ?_⟩
  rw [readLoc_streamDone_outWord s (hj.trans_le (outCount_streamDone_le s n)), subkey_streamDone]
  exact (congrArg₂ (fun x z => (encryptBlock s.params x z).1) (words4_eq _) (words4_eq _)).symm

/-- Settles O27: OUT word j is a function of the parameters, block j and the SubkeySet. -/
theorem streamBlocksAreIndependent : Obligations.StreamBlocksAreIndependent := by
  unfold Obligations.StreamBlocksAreIndependent
  intro s t u w j hparams hkeyLen hinLen hkey hblock hs ht herr hj
  obtain ⟨n, hplan, rfl⟩ := streamDone_of_exec hs herr
  have hplan' : streamPlan t = .ok n := (streamPlan_congr hparams hkeyLen hinLen).trans hplan
  obtain rfl : w = streamDone t n := Host.Outcome.next.inj (ht.symm.trans (exec_stream_of_plan_ok hplan'))
  have hjn : j < n := hj.trans_le (outCount_streamDone_le s n)
  rw [readLoc_streamDone_outWord t hjn, readLoc_streamDone_outWord s hjn, hparams, deriveSubkeys_congr hkey,
    inputBlock_congr hinLen fun i hi _ => hblock i hi]

/-! ### The default schedule (R84) -/

/-- Settles O20: the cyclic schedule is evaluated. -/
theorem defaultScheduleIsCyclic : Obligations.DefaultScheduleIsCyclic := by
  unfold Obligations.DefaultScheduleIsCyclic
  exact ⟨rfl, rfl⟩

end Sys2Proof.Machine
end

section
/-! PROOFS. The turns of the agents (10_state.md R15): what each is (R105, R112, R114), and what a statement of a host program
does to the core (30_encoding.md R62). -/

namespace Sys2Proof.Machine

/-! ### One step is one turn -/

theorem step_of_mover {s : State} {m : Turn} (h : s.mover = some m) : step s = runTurn m s.tookTurn := by
  rw [step, stepTurn, h]

theorem step_of_no_mover {s : State} (h : s.mover = none) : step s = .next s := by
  rw [step, stepTurn, h]

theorem coreStep_of_decode_ok {s : State} {i : Instr} (hbusy : s.busy = true) (hi : decode s.cmd = .ok i) :
    coreStep s = exec i s := by
  rw [coreStep, if_pos hbusy, hi]

theorem coreStep_idle {s : State} (hidle : s.busy = false) : coreStep s = .next s := by
  rw [coreStep, if_neg (by simp [hidle])]

theorem tableWord_toNat (w : Word) : tableWord 32 w.toNat = w := by
  rw [tableWord, Nat.mod_eq_of_lt w.isLt, BitVec.ofNat_toNat, BitVec.setWidth_eq]

/-- Settles O33: the core's turn on a word that decodes is exec of its command, and withFetchWord gives the core the turn. -/
theorem stepRunsDecodedCommand : Obligations.StepRunsDecodedCommand := by
  unfold Obligations.StepRunsDecodedCommand
  refine ⟨fun s i hm hbusy hi => ?_, fun s w i hi => ?_⟩
  · exact (step_of_mover hm).trans (coreStep_of_decode_ok hbusy hi)
  · rw [State.withFetchWord, tableWord_toNat]
    exact (step_of_mover (m := .core) rfl).trans
      (coreStep_of_decode_ok (s := (s.pendingCommand w).tookTurn) rfl hi)

theorem mover_eq_none {s : State} (hturns : s.turns = []) (hidle : s.busy = false) (hend : s.prog.length ≤ s.hostPc) :
    s.mover = none := by
  simp [State.mover, hturns, hidle, hend]

/-- Settles O34: an idle core's turn is not enabled, and with nobody to move the step is a stutter. -/
theorem idleChangesNothing : Obligations.IdleChangesNothing := by
  unfold Obligations.IdleChangesNothing
  exact ⟨fun _ => coreStep_idle, fun s hturns hidle hend => step_of_no_mover (mover_eq_none hturns hidle hend)⟩

/-! ### One access (R36, R37) -/

/-- What a bus write can change of the state: CMD with STATUS, KEY_LEN, IN_LEN, OP and the buffers (R42). -/
theorem writeLoc_frame (s : State) (l : Loc) (v : Word) :
    writeLoc s l v = { s with
      cmd := (writeLoc s l v).cmd, busy := (writeLoc s l v).busy, doneBit := (writeLoc s l v).doneBit
      err := (writeLoc s l v).err, keyLen := (writeLoc s l v).keyLen, inLen := (writeLoc s l v).inLen
      op := (writeLoc s l v).op, mem := (writeLoc s l v).mem } := by
  cases l with
  | reg r => cases r <;> rfl
  | keyWord w => rw [writeLoc, memWrite, writeBytes_eq_withMem]; rfl
  | inWord w => rw [writeLoc, memWrite, writeBytes_eq_withMem]; rfl
  | outWord w => rfl

theorem writeLoc_responses (s : State) (l : Loc) (v : Word) : (writeLoc s l v).responses = s.responses := by
  rw [writeLoc_frame]

/-- The access itself notes no response; `busAccess` does. -/
theorem busOp_responses (s : State) (offset : Nat) (o : BusOp) : (busOp s offset o).2.responses = s.responses := by
  cases o with
  | read => rcases busRead_cases s offset with ⟨-, h⟩ | ⟨_, -, ⟨-, -, h⟩ | ⟨-, h⟩⟩ <;>
    simp only [busOp, h, State.drawn_responses]
  | write v =>
    rcases busWrite_cases s offset v with h | ⟨l, -, -, -, h⟩ <;> rw [busOp, h]
    exact writeLoc_responses s l v

theorem busStep_inside {s : State} {a : Access} (hlo : s.params.base ≤ a.address)
    (hhi : a.address < s.params.base + 0x1000) :
    busStep a s = .next { (busOp s (a.address - s.params.base) a.op).2 with
      responses := (busOp s (a.address - s.params.base) a.op).1 :: s.responses } := by
  rw [busStep, busAccess, windowOffset, if_pos ⟨hlo, hhi⟩, ← busOp_responses s (a.address - s.params.base) a.op]
  rfl

theorem busStep_outside {s : State} {a : Access} (h : a.address < s.params.base ∨ s.params.base + 0x1000 ≤ a.address) :
    busStep a s = .fault .outsideWindow := by
  rw [busStep, busAccess, windowOffset, if_neg (by omega)]

/-- Settles O35: a bus master's turn is one access inside the window, and a fault outside. -/
theorem busTurnIsOneAccess : Obligations.BusTurnIsOneAccess := by
  unfold Obligations.BusTurnIsOneAccess
  exact fun s a hm => ⟨fun hlo hhi => ⟨_, _, rfl, (step_of_mover hm).trans (busStep_inside (s := s.tookTurn) hlo hhi)⟩,
    fun hout => (step_of_mover hm).trans (busStep_outside (s := s.tookTurn) hout)⟩

/-! ### The statements of a host program (R62) -/

/-- An access of the host program, at BASE plus an offset, is the access at that offset. -/
theorem busAccess_base_add {s t : State} {offset : Nat} {o : BusOp} {r : BusResp}
    (h : busAccess s ⟨s.params.base + offset, o⟩ = some (r, t)) :
    offset < 0x1000 ∧ r = (busOp s offset o).1 ∧ CoreKept (busOp s offset o).2 t ∧ t.responses = r :: s.responses := by
  obtain ⟨offset', hw, rfl, rfl⟩ := busAccess_some h
  rw [windowOffset_base_add] at hw
  split at hw
  next hlt =>
    cases hw
    exact ⟨hlt, rfl, responded_coreKept _ _, congrArg _ (busOp_responses s offset o)⟩
  next => cases hw

theorem hostJump_next {s t : State} {l : Nat} (h : hostJump s l = .next t) : ∃ pc, t = s.withHostPc pc := by
  unfold hostJump at h
  split at h <;> cases h
  exact ⟨_, rfl⟩

theorem hostStmt_ifGoto_next {s t : State} {a b : HostExpr} {c : HostCmp} {l : Nat}
    (h : hostStmt (.ifGoto a c b l) s = .next t) : ∃ pc, t = s.withHostPc pc := by
  rw [hostStmt] at h
  split at h
  · exact hostJump_next h
  · cases h; exact ⟨_, rfl⟩

theorem hostStmt_wr_next {s t : State} {l : HostLoc} {e : HostExpr} (h : hostStmt (.wr l e) s = .next t) :
    evalLoc s.names l < 0x1000 ∧ CoreKept (busWrite s (evalLoc s.names l) (evalExpr s.names e)).2 t ∧
      t.responses = (busWrite s (evalLoc s.names l) (evalExpr s.names e)).1 :: s.responses := by
  rw [hostStmt] at h
  split at h <;> cases h
  next ha =>
    obtain ⟨hlt, rfl, hkept, hresp⟩ := busAccess_base_add ha
    exact ⟨hlt, hkept.trans' (withHostPc_coreKept _ _), hresp⟩

theorem nameRead_responses (s : State) (name : Option Nat) (r : BusResp) :
    (s.nameRead name r).responses = s.responses := by
  unfold State.nameRead
  split <;> rfl

theorem assocGet_nameRead (s : State) (n : Nat) (d : Word) :
    assocGet (s.nameRead (some n) (.okData d)).names n = some d := assocGet_set_same _ _ _

theorem hostStmt_rd_next {s t : State} {l : HostLoc} {name : Option Nat} (h : hostStmt (.rd l name) s = .next t) :
    evalLoc s.names l < 0x1000 ∧ CoreKept (busRead s (evalLoc s.names l)).2 t ∧
      t.responses = (busRead s (evalLoc s.names l)).1 :: s.responses ∧
      ∀ n d, name = some n → (busRead s (evalLoc s.names l)).1 = .okData d → assocGet t.names n = some d := by
  rw [hostStmt] at h
  split at h <;> cases h
  next r u ha =>
    obtain ⟨hlt, hr, hkept, hresp⟩ := busAccess_base_add ha
    rw [busOp] at hr hkept
    refine ⟨hlt, hkept.trans' ((nameRead_coreKept _ _ _).trans' (withHostPc_coreKept _ _)), ?_, fun n d hn hd => ?_⟩
    · rw [← hr]
      exact (nameRead_responses u name r).trans hresp
    · rw [hn, hr.trans hd]
      exact assocGet_nameRead u n d

/-- Settles O36: set, labels and jumps write the host agent's own fields alone; WR and RD are one access at their offset. -/
theorem hostStatementsTouchTheCoreByOneAccess : Obligations.HostStatementsTouchTheCoreByOneAccess := by
  unfold Obligations.HostStatementsTouchTheCoreByOneAccess
  refine fun s t => ⟨fun n e h => ?set, fun l h => ?label, fun l h => ?goto, fun a c b l h => ?ifGoto,
    fun l e h => hostStmt_wr_next h, fun l name h => hostStmt_rd_next h⟩
  case set =>
    cases h
    exact ⟨(withName_coreKept _ _ _).trans' (withHostPc_coreKept _ _), rfl⟩
  case label =>
    cases h
    exact ⟨withHostPc_coreKept _ _, rfl⟩
  case goto =>
    obtain ⟨pc, rfl⟩ := hostJump_next h
    exact ⟨withHostPc_coreKept _ _, rfl⟩
  case ifGoto =>
    obtain ⟨pc, rfl⟩ := hostStmt_ifGoto_next h
    exact ⟨withHostPc_coreKept _ _, rfl⟩

end Sys2Proof.Machine
end

section
/-! PROOFS. What a step of any agent leaves of the parameters, STATUS, the operands and the outputs (00_scope.md R8; 10_state.md
R19 to R21, R33; 20_memory.md R44, R49, R51; 60_exceptions.md R108). -/

namespace Sys2Proof.Machine

/-! ### The parameters (R8) -/

theorem exec_params {i : Instr} {s t : State} (h : exec i s = .next t) : t.params = s.params :=
  (commandsNeverWriteInputs i s t h).1

theorem coreStep_params {s t : State} (h : coreStep s = .next t) : t.params = s.params := by
  rcases coreStep_cases h with ⟨-, rfl⟩ | ⟨-, i, -, hexec⟩ | ⟨-, -, rfl⟩
  · rfl
  · exact exec_params hexec
  · rfl

theorem writeLoc_params (s : State) (l : Loc) (v : Word) : (writeLoc s l v).params = s.params := by
  rw [writeLoc_frame]

theorem BusEffect.params {s t : State} (h : BusEffect s t) : t.params = s.params := by
  rcases h with hkept | ⟨_, l, v, -, -, -, hkept⟩
  · exact hkept.params
  · exact hkept.params.trans (writeLoc_params s l v)

/-- Settles O42: neither a command nor an access nor a reset writes a parameter. -/
theorem parametersNeverChange : Obligations.ParametersNeverChange := by
  unfold Obligations.ParametersNeverChange
  intro s t h
  rcases step_cases h with ⟨-, rfl⟩ | ⟨-, hcore⟩ | ⟨-, hbus⟩ | ⟨-, rfl⟩
  · rfl
  · exact coreStep_params (s := s.tookTurn) hcore
  · exact hbus.params
  · rfl

/-! ### STATUS (R19 to R21, R108) -/

structure StatusKept (s t : State) : Prop where
  busy : t.busy = s.busy
  doneBit : t.doneBit = s.doneBit
  err : t.err = s.err

/-- STATUS as an accepted CMD write leaves it (30_encoding.md R64). -/
structure JustIssued (t : State) : Prop where
  busy : t.busy = true
  doneBit : t.doneBit = false
  err : t.err = 0

/-- STATUS as a completion step leaves it (60_exceptions.md R105). -/
structure JustCompleted (t : State) : Prop where
  busy : t.busy = false
  doneBit : t.doneBit = true
  err : t.err.toNat ≤ 4

/-- STATUS as a reset leaves it (R35). -/
structure JustReset (t : State) : Prop where
  busy : t.busy = false
  doneBit : t.doneBit = false
  err : t.err = 0

theorem CoreKept.statusKept {s t : State} (h : CoreKept s t) : StatusKept s t := ⟨h.busy, h.doneBit, h.err⟩

theorem writeLoc_status (s : State) (l : Loc) (v : Word) :
    StatusKept s (writeLoc s l v) ∨ JustIssued (writeLoc s l v) := by
  cases l with
  | reg r =>
    cases r with
    | cmd => exact .inr ⟨rfl, rfl, rfl⟩
    | _ => exact .inl ⟨rfl, rfl, rfl⟩
  | keyWord w => rw [writeLoc, memWrite, writeBytes_eq_withMem]; exact .inl ⟨rfl, rfl, rfl⟩
  | inWord w => rw [writeLoc, memWrite, writeBytes_eq_withMem]; exact .inl ⟨rfl, rfl, rfl⟩
  | outWord w => exact .inl ⟨rfl, rfl, rfl⟩

theorem BusEffect.status {s t : State} (h : BusEffect s t) :
    StatusKept s t ∨ (s.busy = false ∧ JustIssued t) := by
  rcases h with hkept | ⟨_, l, v, -, -, hidle, hkept⟩
  · exact .inl hkept.statusKept
  · rcases writeLoc_status s l v with ⟨hb, hd, he⟩ | ⟨hb, hd, he⟩
    · exact .inl ⟨hkept.busy.trans hb, hkept.doneBit.trans hd, hkept.err.trans he⟩
    · exact .inr ⟨hidle, hkept.busy.trans hb, hkept.doneBit.trans hd, hkept.err.trans he⟩

theorem coreStep_justCompleted {s t : State} (hbusy : s.busy = true) (h : coreStep s = .next t) : JustCompleted t := by
  obtain ⟨u, hnext, -⟩ := coreStep_completesWith hbusy
  obtain rfl : t = u.complete (pendingError s) := Host.Outcome.next.inj (h.symm.trans hnext)
  exact ⟨rfl, rfl, statusCode_le _⟩

/-- What a step does to STATUS. -/
theorem step_status {s t : State} (h : step s = .next t) :
    StatusKept s t ∨
    (s.mover = some .core ∧ s.busy = true ∧ JustCompleted t) ∨
    ((s.mover = some .host ∨ ∃ a, s.mover = some (.bus a)) ∧ s.busy = false ∧ JustIssued t) ∨
    (s.mover = some .reset ∧ JustReset t) := by
  rcases step_cases h with ⟨-, rfl⟩ | ⟨hm, hcore⟩ | ⟨hm, hbus⟩ | ⟨hm, rfl⟩
  · exact .inl ⟨rfl, rfl, rfl⟩
  · cases hb : s.busy with
    | false =>
      cases (coreStep_idle (s := s.tookTurn) hb).symm.trans hcore
      exact .inl ⟨rfl, rfl, rfl⟩
    | true => exact .inr (.inl ⟨hm, rfl, coreStep_justCompleted (s := s.tookTurn) hb hcore⟩)
  · rcases hbus.status with ⟨hb, hd, he⟩ | ⟨hidle, hissued⟩
    · exact .inl ⟨hb, hd, he⟩
    · exact .inr (.inr (.inl ⟨hm, hidle, hissued⟩))
  · exact .inr (.inr (.inr ⟨hm, rfl, rfl, rfl⟩))

/-- While idle, a step but a reset keeps STATUS or issues a command. -/
theorem step_status_of_idle {s t : State} (h : step s = .next t) (hidle : s.busy = false)
    (hreset : s.mover ≠ some .reset) : StatusKept s t ∨ JustIssued t := by
  rcases step_status h with hkept | ⟨-, hbusy, -⟩ | ⟨-, -, hissued⟩ | ⟨hm, -⟩
  · exact .inl hkept
  · simp [hidle] at hbusy
  · exact .inr hissued
  · exact absurd hm hreset

/-- Settles O32: an idle core's STATUS is kept or a command is issued. -/
theorem errorCodePersists : Obligations.ErrorCodePersists := by
  unfold Obligations.ErrorCodePersists
  intro s t h hidle hreset
  rcases step_status_of_idle h hidle hreset with hkept | hissued
  · exact .inl hkept.err
  · exact .inr ⟨hissued.busy, hissued.doneBit, hissued.err⟩

/-- Settles O40: in each case of `step_status` the bits that change are those its agent may change. -/
theorem doneMarksCompletion : Obligations.DoneMarksCompletion := by
  unfold Obligations.DoneMarksCompletion
  intro s t h
  rcases step_status h with ⟨hb, hd, -⟩ | ⟨hm, hbusy, hb, hd, -⟩ | ⟨hm, hidle, hb, hd, he⟩ | ⟨hm, hb, hd, -⟩
  all_goals simp_all

/-! ### The operands of a pending command (R44, R51) -/

theorem BusEffect.coreKept_of_busy {s t : State} (h : BusEffect s t) (hbusy : s.busy = true) : CoreKept s t := by
  rcases h with hkept | ⟨_, _, _, -, -, hidle, -⟩
  · exact hkept
  · simp [hbusy] at hidle

theorem busWrite_busy {s : State} (hbusy : s.busy = true) (offset : Nat) (v : Word) : busWrite s offset v = (.err, s) := by
  rcases busWrite_cases s offset v with hrefused | ⟨_, -, -, hidle, -⟩
  · exact hrefused
  · simp [hbusy] at hidle

theorem step_coreKept_of_busy {s t : State} (hbusy : s.busy = true) (hcore : s.mover ≠ some .core)
    (hreset : s.mover ≠ some .reset) (h : step s = .next t) : CoreKept s t := by
  rcases step_cases h with ⟨-, rfl⟩ | ⟨hm, -⟩ | ⟨-, hbus⟩ | ⟨hm, -⟩
  · exact CoreKept.rfl' _
  · exact absurd hm hcore
  · exact (tookTurn_coreKept s).trans' (hbus.coreKept_of_busy hbusy)
  · exact absurd hm hreset

/-- Settles O37: a store needs an idle core, so while busy an access leaves the core as it is. -/
theorem coreIsFrozenWhileBusy : Obligations.CoreIsFrozenWhileBusy := by
  unfold Obligations.CoreIsFrozenWhileBusy
  exact ⟨fun _ offset v hbusy => busWrite_busy hbusy offset v, fun _ _ => step_coreKept_of_busy⟩

/-- The registers and buffer bytes a command reads are the same. -/
structure OperandsKept (s t : State) : Prop where
  cmd : t.cmd = s.cmd
  keyLen : t.keyLen = s.keyLen
  inLen : t.inLen = s.inLen
  op : t.op = s.op
  bytes : ∀ a < 0x800, t.readByte a = s.readByte a

theorem CoreKept.operandsKept {s t : State} (h : CoreKept s t) : OperandsKept s t :=
  ⟨h.cmd, h.keyLen, h.inLen, h.op, fun a _ => h.readByte a⟩

theorem exec_operandsKept {i : Instr} {s t : State} (h : exec i s = .next t) : OperandsKept s t := by
  obtain ⟨-, hcmd, hkeyLen, hinLen, hop, -, -, -, -, -, -, -, hbytes⟩ := commandsNeverWriteInputs i s t h
  exact ⟨hcmd, hkeyLen, hinLen, hop, hbytes⟩

theorem coreStep_operandsKept {s t : State} (h : coreStep s = .next t) : OperandsKept s t := by
  rcases coreStep_cases h with ⟨-, rfl⟩ | ⟨-, i, -, hexec⟩ | ⟨-, -, rfl⟩
  · exact (CoreKept.rfl' _).operandsKept
  · exact exec_operandsKept hexec
  · exact ⟨rfl, rfl, rfl, rfl, fun _ _ => rfl⟩

theorem step_operandsKept_of_busy {s t : State} (hbusy : s.busy = true) (hreset : s.mover ≠ some .reset)
    (h : step s = .next t) : OperandsKept s t := by
  by_cases hcore : s.mover = some .core
  · rw [step_of_mover hcore] at h
    obtain ⟨hcmd, hkeyLen, hinLen, hop, hbytes⟩ := coreStep_operandsKept h
    exact ⟨hcmd, hkeyLen, hinLen, hop, hbytes⟩
  · exact (step_coreKept_of_busy hbusy hcore hreset h).operandsKept

/-- Settles O38: the completion step writes no operand, and no other agent can. -/
theorem operandsAreFrozenUntilCompletion : Obligations.OperandsAreFrozenUntilCompletion := by
  unfold Obligations.OperandsAreFrozenUntilCompletion
  intro s t hbusy hreset h
  obtain ⟨hcmd, hkeyLen, hinLen, hop, hbytes⟩ := step_operandsKept_of_busy hbusy hreset h
  exact ⟨hcmd, hkeyLen, hinLen, hop, hbytes⟩

/-! ### The outputs (R33, R49) -/

/-- The registers and buffer bytes a command writes are the same. -/
structure OutputsKept (s t : State) : Prop where
  result : t.result = s.result
  subkey : t.subkey = s.subkey
  trace : t.trace = s.trace
  outCount : t.outCount = s.outCount
  bytes : ∀ a, 0x800 ≤ a → t.readByte a = s.readByte a

theorem OutputsKept.trans' {s t u : State} (h : OutputsKept s t) (k : OutputsKept t u) : OutputsKept s u :=
  ⟨k.result.trans h.result, k.subkey.trans h.subkey, k.trace.trans h.trace, k.outCount.trans h.outCount,
    fun a ha => (k.bytes a ha).trans (h.bytes a ha)⟩

theorem CoreKept.outputsKept {s t : State} (h : CoreKept s t) : OutputsKept s t :=
  ⟨h.result, h.subkey, h.trace, h.outCount, fun a _ => h.readByte a⟩

theorem WordStored.outputsKept {s t : State} {a : Nat} {v : Word} (h : WordStored s a v t) (ha : a + 4 ≤ 0x800) :
    OutputsKept s t := by
  obtain ⟨heq, -, hbytes⟩ := h
  refine ⟨?_, ?_, ?_, ?_, fun x hx => hbytes x (.inr (by omega))⟩ <;> rw [heq]

/-- A word of a legal KEY_BUF or IN_BUF ends before OUT_BUF begins. -/
theorem writeLoc_outputsKept {s : State} {l : Loc} (v : Word) (hp : s.params.Legal) (hl : locMapped s.params l = true) :
    OutputsKept s (writeLoc s l v) := by
  obtain ⟨-, -, hkey, -, -, hin, -⟩ := hp
  cases l with
  | reg r => cases r <;> exact ⟨rfl, rfl, rfl, rfl, fun _ _ => rfl⟩
  | keyWord w =>
    have hw : w < s.params.keyBufBytes / 4 := of_decide_eq_true hl
    exact (wordStored_writeBytes s (0x100 + 4 * w) v).outputsKept (by omega)
  | inWord w =>
    have hw : w < s.params.inBufBytes / 4 := of_decide_eq_true hl
    exact (wordStored_writeBytes s (0x400 + 4 * w) v).outputsKept (by omega)
  | outWord w => exact ⟨rfl, rfl, rfl, rfl, fun _ _ => rfl⟩

theorem BusEffect.outputsKept {s t : State} (h : BusEffect s t) (hp : s.params.Legal) : OutputsKept s t := by
  rcases h with hkept | ⟨_, l, v, hl, -, -, hkept⟩
  · exact hkept.outputsKept
  · exact (writeLoc_outputsKept v hp (locate_mapped hl).2).trans' hkept.outputsKept

theorem step_outputsKept {s t : State} (h : step s = .next t) (hreset : s.mover ≠ some .reset)
    (hcompletion : ¬ (s.mover = some .core ∧ s.busy = true)) (hp : s.params.Legal) : OutputsKept s t := by
  rcases step_cases h with ⟨-, rfl⟩ | ⟨hm, hcore⟩ | ⟨-, hbus⟩ | ⟨hm, -⟩
  · exact (CoreKept.rfl' _).outputsKept
  · have hidle : s.busy = false := by simpa [hm] using hcompletion
    cases (coreStep_idle (s := s.tookTurn) hidle).symm.trans hcore
    exact (tookTurn_coreKept s).outputsKept
  · exact (tookTurn_coreKept s).outputsKept.trans' (hbus.outputsKept hp)
  · exact absurd hm hreset

/-- Settles O39: an accepted write stores below 0x800 or in an input register. -/
theorem outputsChangeOnlyAtCompletion : Obligations.OutputsChangeOnlyAtCompletion := by
  unfold Obligations.OutputsChangeOnlyAtCompletion
  intro s t h hreset hcompletion hp
  obtain ⟨hresult, hsubkey, htrace, hcount, hbytes⟩ := step_outputsKept h hreset hcompletion hp
  exact ⟨hresult, hsubkey, htrace, hcount, hbytes⟩

/-- Settles O41: with valid results the core is idle, so no completion step comes before the next command is issued. -/
theorem resultsStayValid : Obligations.ResultsStayValid := by
  unfold Obligations.ResultsStayValid
  intro s t hp ⟨hidle, hdone, herr⟩ h hreset
  have hcompletion : ¬ (s.mover = some .core ∧ s.busy = true) := by simp [hidle]
  obtain ⟨hresult, hsubkey, htrace, hcount, hbytes⟩ := step_outputsKept h hreset hcompletion hp
  refine ⟨?_, hresult, hsubkey, htrace, hcount, hbytes⟩
  rcases step_status_of_idle h hidle hreset with hkept | hissued
  · exact .inl ⟨hkept.busy.trans hidle, hkept.doneBit.trans hdone, hkept.err.trans herr⟩
  · exact .inr hissued.busy

end Sys2Proof.Machine
end

section
/-! PROOFS. Every issued command completes (70_reset_and_hazards.md R124): each listed turn before the core's is taken without
touching the pending command, or is a bus master's fault (logs 7, 8). -/

namespace Sys2Proof.Machine

/-! ### Runs -/

theorem coreRun_succ {M : Host.Core} {s t : M.State} (h : M.step s = .next t) (k : Nat) : M.run (k + 1) s = M.run k t := by
  rw [Host.Core.run, h]

theorem coreRun_one_of_fault {M : Host.Core} {s : M.State} {f : M.Fault} (h : M.step s = .fault f) :
    M.run 1 s = .fault f := by
  rw [Host.Core.run, h]

theorem run_succ {s t : State} (h : step s = .next t) (k : Nat) : Sys2Proof.core.run (k + 1) s = Sys2Proof.core.run k t :=
  coreRun_succ (M := Sys2Proof.core) h k

theorem run_one_of_fault {s : State} {f : Fault} (h : step s = .fault f) : Sys2Proof.core.run 1 s = .fault f :=
  coreRun_one_of_fault (M := Sys2Proof.core) h

/-- After k steps the command pending in s has completed, or a listed reset has abandoned it. -/
def CompletesIn (s : State) (k : Nat) : Prop :=
  ∃ t, Sys2Proof.core.run k s = .next t ∧ t.busy = false ∧ (Turn.reset ∉ s.turns → t.doneBit = true)

/-- The outcome is one of the two faults of a bus master (logs 7, 8). -/
def IsMasterFault (r : Result) : Prop := r = .fault .outsideWindow ∨ r = .fault .unknownLabel

/-- No listed turn can fault: the bus masters stay within the window, and no statement of a listed host's program faults. -/
structure TurnsSafe (s : State) : Prop where
  bus : ∀ a, Turn.bus a ∈ s.turns → s.params.base ≤ a.address ∧ a.address < s.params.base + 0x1000
  host : Turn.host ∈ s.turns → ∀ stmt ∈ s.prog, ∀ u : State, u.params = s.params → u.prog = s.prog →
    ∀ f, hostStmt stmt u ≠ .fault f

theorem TurnsSafe.of_rest {s t : State} {m : Turn} (h : TurnsSafe s) (hturns : s.turns = m :: t.turns)
    (hprog : t.prog = s.prog) (hparams : t.params = s.params) : TurnsSafe t := by
  have hlisted : ∀ {m'}, m' ∈ t.turns → m' ∈ s.turns := fun hm => hturns ▸ List.mem_cons_of_mem m hm
  refine ⟨fun a ha => ?_, fun hhost => ?_⟩
  · rw [hparams]
    exact h.bus a (hlisted ha)
  · rw [hparams, hprog]
    exact h.host (hlisted hhost)

theorem CompletesIn.of_rest {s t : State} {m : Turn} {k : Nat} (h : CompletesIn t k) (hstep : step s = .next t)
    (hturns : s.turns = m :: t.turns) : CompletesIn s (k + 1) := by
  obtain ⟨u, hrun, hidle, hdone⟩ := h
  refine ⟨u, (run_succ hstep k).trans hrun, hidle, fun hreset => hdone fun hm => hreset ?_⟩
  rw [hturns]
  exact List.mem_cons_of_mem m hm

/-! ### One turn before the completion step -/

theorem completesIn_one_of_core {s : State} (hbusy : s.busy = true) (hm : s.mover = some .core) : CompletesIn s 1 := by
  obtain ⟨u, hcore, -⟩ := coreStep_completesWith (s := s.tookTurn) hbusy
  exact ⟨_, run_succ ((step_of_mover hm).trans hcore) 0, rfl, fun _ => rfl⟩

theorem completesIn_one_of_reset {s : State} {rest : List Turn} (hturns : s.turns = .reset :: rest) :
    CompletesIn s 1 := by
  refine ⟨_, run_succ (step_of_mover (mover_of_turns hturns)) 0, rfl, fun hreset => absurd ?_ hreset⟩
  rw [hturns]
  exact List.mem_cons_self

/-- A turn of the host goes on with the schedule as it was, or one of its program's statements faults. -/
theorem hostStep_outcome (s : State) :
    (∃ t, hostStep s = .next t ∧ ScheduleKept s t) ∨
    (IsMasterFault (hostStep s) ∧ ∃ stmt ∈ s.prog, ∃ f, hostStmt stmt s = .fault f) := by
  unfold hostStep
  split
  next stmt hstmt =>
    have hmem : stmt ∈ s.prog := List.mem_of_getElem? hstmt
    rcases hostStmt_outcome stmt s with hnext | hfault | hfault
    · exact .inl hnext
    · exact .inr ⟨.inl hfault, stmt, hmem, _, hfault⟩
    · exact .inr ⟨.inr hfault, stmt, hmem, _, hfault⟩
  next => exact .inl ⟨s, rfl, rfl, rfl⟩

/-- A turn of the host or of a bus master goes on with the turns after it, or faults, which it cannot where the turns are
safe. -/
theorem master_step_outcome {s : State} {m : Turn} {rest : List Turn} (hturns : s.turns = m :: rest)
    (hmaster : m = .host ∨ ∃ a, m = .bus a) :
    (∃ t, step s = .next t ∧ t.turns = rest ∧ t.prog = s.prog) ∨ (IsMasterFault (step s) ∧ ¬ TurnsSafe s) := by
  have hstep : step s = runTurn m s.tookTurn := step_of_mover (mover_of_turns hturns)
  have hm : m ∈ s.turns := by rw [hturns]; exact List.mem_cons_self
  have hrest : s.tookTurn.turns = rest := congrArg List.tail hturns
  rw [hstep]
  rcases hmaster with rfl | ⟨a, rfl⟩
  · rcases hostStep_outcome s.tookTurn with ⟨t, hnext, hkept, hprog⟩ | ⟨hfault, stmt, hmem, f, hf⟩
    · exact .inl ⟨t, hnext, hkept.trans hrest, hprog⟩
    · exact .inr ⟨hfault, fun hsafe => hsafe.host hm stmt hmem s.tookTurn rfl rfl f hf⟩
  · rcases busStep_outcome a s.tookTurn with ⟨t, hnext, hkept, hprog⟩ | ⟨hout, hfault⟩
    · exact .inl ⟨t, hnext, hkept.trans hrest, hprog⟩
    · refine .inr ⟨.inl hfault, fun hsafe => ?_⟩
      have hnone : windowOffset s.params a.address = none := hout
      rw [windowOffset, if_pos (hsafe.bus a hm)] at hnone
      cases hnone

/-! ### The listed turns, one after the other -/

theorem completes_or_faults {s : State} (hbusy : s.busy = true) :
    ∃ k ≤ s.turns.length + 1,
      CompletesIn s k ∨ (IsMasterFault (Sys2Proof.core.run k s) ∧ ¬ TurnsSafe s) := by
  induction hturns : s.turns generalizing s with
  | nil =>
    have hm : s.mover = some .core := by simp [State.mover, hturns, hbusy]
    exact ⟨1, by simp, .inl (completesIn_one_of_core hbusy hm)⟩
  | cons m rest ih =>
    have hmover : s.mover = some m := mover_of_turns hturns
    by_cases hcore : m = .core
    · exact ⟨1, by simp, .inl (completesIn_one_of_core hbusy (hcore ▸ hmover))⟩
    by_cases hreset : m = .reset
    · exact ⟨1, by simp, .inl (completesIn_one_of_reset (hreset ▸ hturns))⟩
    have hmaster : m = .host ∨ ∃ a, m = .bus a := by cases m <;> simp_all
    rcases master_step_outcome hturns hmaster with ⟨t, hstep, rfl, hprog⟩ | ⟨hfault, hunsafe⟩
    · have hkept : CoreKept s t :=
        step_coreKept_of_busy hbusy (by simp [hmover, hcore]) (by simp [hmover, hreset]) hstep
      obtain ⟨k, hk, hdone | ⟨hfault, hunsafe⟩⟩ := ih (hkept.busy.trans hbusy) rfl
      · exact ⟨k + 1, by simpa using hk, .inl (hdone.of_rest hstep hturns)⟩
      · refine ⟨k + 1, by simpa using hk, .inr ⟨?_, fun hsafe => hunsafe (hsafe.of_rest hturns hprog hkept.params)⟩⟩
        rw [run_succ hstep]
        exact hfault
    · exact ⟨1, by simp, .inr ⟨hfault.imp run_one_of_fault run_one_of_fault, hunsafe⟩⟩

/-- Settles O43, by induction on the listed turns: the first of the core or of a reset ends the wait. -/
theorem everyIssuedCommandCompletes : Obligations.EveryIssuedCommandCompletes := by
  unfold Obligations.EveryIssuedCommandCompletes
  intro s hbusy
  obtain ⟨k, hk, hdone | ⟨hfault, hunsafe⟩⟩ := completes_or_faults hbusy
  · exact ⟨⟨k, hk, .inl hdone⟩, fun _ _ => ⟨k, hk, hdone⟩⟩
  · exact ⟨⟨k, hk, .inr hfault⟩, fun hbus hhost => absurd ⟨hbus, hhost⟩ hunsafe⟩

end Sys2Proof.Machine
end

section
/-! PROOFS. The state after reset (10_state.md R35; 70_reset_and_hazards.md R115 to R117), and the machine's invariant: it
holds after reset and every step keeps it. -/

namespace Sys2Proof.Machine

/-! ### Reset -/

theorem JustReset.statusWord {s : State} (h : JustReset s) : statusWord s = 0 := by
  rw [Machine.statusWord, h.busy, h.doneBit, h.err]
  rfl

/-- Settles O51: each register of the reset state is evaluated, and its memory lists no byte. -/
theorem resetStateIsIdleAndZero : Obligations.ResetStateIsIdleAndZero := by
  unfold Obligations.ResetStateIsIdleAndZero
  exact ⟨rfl, JustReset.statusWord ⟨rfl, rfl, rfl⟩, rfl, rfl, rfl, rfl, rfl, by decide, by decide, fun _ => rfl⟩

/-- Settles O52: a reset turn is `State.afterReset` on the state with that turn struck off. -/
theorem resetTurnClearsTheCore : Obligations.ResetTurnClearsTheCore := by
  unfold Obligations.ResetTurnClearsTheCore
  intro s hm
  exact ⟨s.tookTurn.afterReset, step_of_mover hm, rfl, JustReset.statusWord ⟨rfl, rfl, rfl⟩, rfl, rfl, rfl, rfl, rfl,
    fun i => ⟨Vector.getElem_replicate i.isLt, Vector.getElem_replicate i.isLt⟩,
    fun i => Vector.getElem_replicate i.isLt, fun _ => rfl, rfl, rfl, rfl, rfl, rfl, rfl, rfl⟩

/-- Settles O53: the defaults are legal, every register is 0, and the buffers list no byte. -/
theorem resetMeetsInvariant : Obligations.ResetMeetsInvariant :=
  ⟨by decide, ⟨by decide, by decide, by decide⟩, ⟨by decide, by decide⟩, ⟨by decide, by decide⟩⟩

/-! ### STATUS -/

theorem step_statusInv {s t : State} (hs : StatusInv s) (h : step s = .next t) : StatusInv t := by
  rcases step_status h with ⟨hb, hd, he⟩ | ⟨-, -, hb, hd, he⟩ | ⟨-, -, hb, hd, he⟩ | ⟨-, hb, hd, he⟩
  · constructor
    · rw [hb, hd]; exact hs.busy_excludes_done
    · rw [hd, he]; exact hs.error_only_when_done
    · rw [he]; exact hs.error_in_range
  · exact ⟨by simp [hb], by simp [hd], he⟩
  · exact ⟨fun _ => hd, fun _ => he, by simp [he]⟩
  · exact ⟨fun _ => hd, fun _ => he, by simp [he]⟩

/-! ### The buffers (R46) -/

/-- The offsets that lie in a buffer (R36). -/
def InBuffers (p : Params) (x : Nat) : Prop :=
  (0x100 ≤ x ∧ x < 0x100 + p.keyBufBytes) ∨ (0x400 ≤ x ∧ x < 0x400 + p.inBufBytes) ∨
    (0x800 ≤ x ∧ x < 0x800 + 4 * p.outBufWords)

theorem BufferInv.congr {s t : State} (h : BufferInv s) (hmem : t.mem = s.mem) (hparams : t.params = s.params) :
    BufferInv t := by
  constructor
  · rw [hmem]; exact h.canonical
  · rw [hmem, hparams]; exact h.within_capacity

theorem BufferInv.writeBytes {s : State} (h : BufferInv s) {a : Nat} (v : Word)
    (hin : ∀ x, a ≤ x → x < a + 4 → InBuffers s.params x) : BufferInv (s.writeBytes a 4 v) := by
  have hparams : (s.writeBytes a 4 v).params = s.params := by rw [writeBytes_eq_withMem, State.withMem_params]
  refine ⟨writeBytes_wf a 4 v h.canonical, fun c hc => ?_⟩
  rw [hparams]
  rcases mem_writeBytes hc with ⟨hlo, hhi⟩ | hold
  · exact hin c.1 hlo hhi
  · exact h.within_capacity c hold

theorem writeLoc_bufferInv {s : State} {l : Loc} (v : Word) (h : BufferInv s) (hl : locMapped s.params l = true) :
    BufferInv (writeLoc s l v) := by
  cases l with
  | reg r => cases r <;> exact h.congr rfl rfl
  | keyWord w =>
    have hw : w < s.params.keyBufBytes / 4 := of_decide_eq_true hl
    exact h.writeBytes (a := 0x100 + 4 * w) v fun x hlo hhi => .inl ⟨by omega, by omega⟩
  | inWord w =>
    have hw : w < s.params.inBufBytes / 4 := of_decide_eq_true hl
    exact h.writeBytes (a := 0x400 + 4 * w) v fun x hlo hhi => .inr (.inl ⟨by omega, by omega⟩)
  | outWord w => exact h

theorem BusEffect.bufferInv {s t : State} (h : BusEffect s t) (hs : BufferInv s) : BufferInv t := by
  rcases h with hkept | ⟨_, l, v, hl, -, -, hkept⟩
  · exact hs.congr hkept.mem hkept.params
  · exact (writeLoc_bufferInv v hs (locate_mapped hl).2).congr hkept.mem hkept.params

/-- A STREAM that passes validation has at most OUT_BUF_WORDS blocks: IN_BUF_BYTES is a multiple of 4. -/
theorem streamPlan_le {s : State} {n : Nat} (hp : s.params.Legal) (h : streamPlan s = .ok n) :
    n ≤ s.params.outBufWords := by
  obtain ⟨-, -, -, hmult, -, -, -⟩ := hp
  obtain ⟨-, hin, -, hcount⟩ := streamPlan_ok h
  have hn := blockCount_le hcount
  rw [Params.outBufWords]
  omega

theorem exec_bufferInv {i : Instr} {s t : State} (h : exec i s = .next t) (hp : s.params.Legal) (hs : BufferInv s) :
    BufferInv t := by
  cases completion_of_exec h with
  | stream n m hplan hm =>
    have hmem : m = (streamBlocks s (deriveSubkeys s) n s).mem := by rw [hm, State.withMem_mem]
    have hn := streamPlan_le hp hplan
    constructor
    · have hwf := streamBlocks_wf s (deriveSubkeys s) n hs.canonical
      rwa [← hmem] at hwf
    · intro c hc
      rcases mem_streamBlocks (hmem ▸ hc) with ⟨hlo, hhi⟩ | hold
      · exact .inr (.inr ⟨hlo, hhi.trans_le (by simpa using hn)⟩)
      · exact hs.within_capacity c hold
  | _ => exact hs.congr rfl rfl

theorem coreStep_bufferInv {s t : State} (h : coreStep s = .next t) (hp : s.params.Legal) (hs : BufferInv s) :
    BufferInv t := by
  rcases coreStep_cases h with ⟨-, rfl⟩ | ⟨-, i, -, hexec⟩ | ⟨-, -, rfl⟩
  · exact hs
  · exact exec_bufferInv hexec hp hs
  · exact hs.congr rfl rfl

theorem step_bufferInv {s t : State} (h : step s = .next t) (hp : s.params.Legal) (hs : BufferInv s) : BufferInv t := by
  have htook : BufferInv s.tookTurn := hs.congr rfl rfl
  rcases step_cases h with ⟨-, rfl⟩ | ⟨-, hcore⟩ | ⟨-, hbus⟩ | ⟨-, rfl⟩
  · exact hs
  · exact coreStep_bufferInv hcore hp htook
  · exact hbus.bufferInv htook
  · exact ⟨rfl, fun c hc => absurd hc List.not_mem_nil⟩

/-! ### The output registers (R25, R31) -/

theorem OutputInv.congr {s t : State} (h : OutputInv s) (hsubkey : t.subkey = s.subkey) (hcount : t.outCount = s.outCount)
    (hparams : t.params = s.params) : OutputInv t := by
  constructor
  · rw [hsubkey]; exact h.subkeys_are_bytes
  · rw [hcount, hparams]; exact h.count_in_range

theorem exec_outputInv {i : Instr} {s t : State} (h : exec i s = .next t) (hp : s.params.Legal) (hs : OutputInv s) :
    OutputInv t := by
  cases completion_of_exec h with
  | keysched => exact ⟨deriveSubkeys_le s, hs.count_in_range⟩
  | stream n m hplan hm =>
    have hcount : (BitVec.ofNat 32 n).toNat ≤ n := outCount_streamDone_le s n
    exact ⟨deriveSubkeys_le s, hcount.trans (streamPlan_le hp hplan)⟩
  | _ => exact hs.congr rfl rfl rfl

theorem coreStep_outputInv {s t : State} (h : coreStep s = .next t) (hp : s.params.Legal) (hs : OutputInv s) :
    OutputInv t := by
  rcases coreStep_cases h with ⟨-, rfl⟩ | ⟨-, i, -, hexec⟩ | ⟨-, -, rfl⟩
  · exact hs
  · exact exec_outputInv hexec hp hs
  · exact hs.congr rfl rfl rfl

theorem afterReset_outputInv (s : State) : OutputInv s.afterReset := by
  constructor
  · intro i
    rw [State.afterReset_subkey, Fin.getElem_fin, Vector.getElem_replicate]
    decide
  · exact Nat.zero_le _

theorem step_outputInv {s t : State} (h : step s = .next t) (hp : s.params.Legal) (hs : OutputInv s) : OutputInv t := by
  have htook : OutputInv s.tookTurn := hs.congr rfl rfl rfl
  rcases step_cases h with ⟨-, rfl⟩ | ⟨-, hcore⟩ | ⟨-, hbus⟩ | ⟨-, rfl⟩
  · exact hs
  · exact coreStep_outputInv hcore hp htook
  · have hkept := hbus.outputsKept hp
    exact htook.congr hkept.subkey hkept.outCount hbus.params
  · exact afterReset_outputInv _

/-- Settles O54: each part of the invariant is kept by every step, the buffers and the output registers because the
parameters are legal. -/
theorem everyStepKeepsInvariant : Obligations.EveryStepKeepsInvariant := by
  unfold Obligations.EveryStepKeepsInvariant
  intro s t ⟨hp, hstatus, hbuffers, houtputs⟩ h
  refine ⟨?_, step_statusInv hstatus h, step_bufferInv h hp hbuffers, step_outputInv h hp houtputs⟩
  rw [parametersNeverChange s t h]
  exact hp

end Sys2Proof.Machine
end
